-- ==== Sys2Proof/Word.lean ====
section
/-! DEFINITION. The two word types of the machine: `u8` and `u16` (00_scope.md R4, R11). -/

namespace Sys2Proof

/-- `u8`: a memory byte, an opcode, a trailing byte, an 8-bit register (00_scope.md R4). -/
abbrev Byte := BitVec 8

/-- `u16`: a 16-bit register, a pair, an address the engine forms (00_scope.md R4). -/
abbrev Word := BitVec 16

end Sys2Proof
end

