-- ==== Sys2Proof/Config.lean ====
section
/-! DEFINITION. The values the model names for the spec's open parameters (00_scope.md R5 to R8). They enter
`State.reset` only, which is ONE construction of the machine: a statement of the model is about every state, and a state
carries its own capacities, registers, bytes and decode table (log entry 4). -/

namespace Sys2Proof.Config

/-- The default of `P_IMEM_CAPACITY` and `P_DMEM_CAPACITY` (00_scope.md R5). -/
def defaultCapacity : Nat := 131072

/-- `P_START_ADDR` in `State.reset`. DESIGN CHOICE, unsafe (log entry 6): the spec gives no value (00_scope.md R6). -/
def startAddr : Word := 0

/-- Every 8-bit register of `P_INIT_REGS` in `State.reset`. DESIGN CHOICE, unsafe (log entry 7): the spec gives no value
(70_reset_and_hazards.md R151). -/
def initByte : Byte := 0

/-- SP, IX and IY of `P_INIT_REGS` in `State.reset`. DESIGN CHOICE, unsafe (log entry 7): the spec gives no value
(70_reset_and_hazards.md R151). -/
def initWord : Word := 0

/-- What a byte of memory that the cell list does not name reads as. DESIGN CHOICE, unsafe (log entry 8): the spec leaves
a byte that was not placed open (70_reset_and_hazards.md R152). Every content of a memory is still some cell list. -/
def unplacedByte : Byte := 0

end Sys2Proof.Config
end

