-- ==== Sys2Proof/Syntax.lean ====
section
/-! DEFINITION. The syntax of the machine: register names and selectors, operands, Instruction values (10_state.md R35),
the decode table's type (30_encoding.md R62), fetched trailing bytes, and `Instr`, one constructor per row of
spec/opcode_table.json. -/

namespace Sys2Proof

/-- The ten 8-bit registers, each its own storage (10_state.md R15). -/
inductive Reg8 where
  | a | b | c | d | e | h | l | f | i | r
deriving DecidableEq, Repr

/-- The names of the 16-bit selector set: four true 16-bit registers and four pairs (10_state.md R16, R18, R23). -/
inductive Reg16 where
  | pc | sp | ix | iy | bc | de | hl | af
deriving DecidableEq, Repr

/-- An 8-bit selector: a name of the set, or a raw selector that names no register of it (10_state.md R23; log entry 14). -/
inductive Sel8 where
  | named (reg : Reg8)
  | raw (index : Nat)
deriving DecidableEq, Repr

/-- A 16-bit selector: a name of the set, or a raw selector that names no register of it (10_state.md R23; log entry 14). -/
inductive Sel16 where
  | named (reg : Reg16)
  | raw (index : Nat)
deriving DecidableEq, Repr

/-- The operand-fetch kind of an instruction (10_state.md R35, 30_encoding.md R59). -/
inductive Kind where
  | noOperand | n | nn | displacement
deriving DecidableEq, Repr

/-- An operand: a tag and a selector (10_state.md R35, 41_operands.md R93). The immediates carry no value. -/
inductive Operand where
  | reg (sel : Sel8)
  | reg16 (sel : Sel16)
  | mem (address : Operand)
  | imm8
  | imm16
deriving DecidableEq, Repr

/-- `Reg(r)` for a name of the set. -/
abbrev Operand.r8 (name : Reg8) : Operand := .reg (.named name)

/-- `Reg16(p)` for a name of the set. -/
abbrev Operand.r16 (name : Reg16) : Operand := .reg16 (.named name)

/-- The operation of an instruction: No-op, Load or Add (10_state.md R35). -/
inductive Operation where
  | nop
  | load (dst src : Operand)
  | add (lhs rhs : Operand)
deriving DecidableEq, Repr

/-- An Instruction value (10_state.md R35): what a decode table holds and what `current` holds. -/
structure Instruction where
  kind : Kind
  operation : Operation
deriving DecidableEq, Repr

/-- What a decode miss is replaced by (30_encoding.md R70). -/
def Instruction.placeholder : Instruction := ⟨.noOperand, .nop⟩

/-- `P_DECODE_TABLE`, nested as the source nests it, `table[x][z][y]` (30_encoding.md R62): each key holds an Instruction
value or no entry (00_scope.md R9). -/
abbrev DecodeTable := Vector (Vector (Vector (Option Instruction) 8) 8) 4

/-- The trailing bytes of one instruction, as fetched: none, the byte of kind N, the two bytes of kind NN in the order
they stand in instruction memory, or the byte of kind Displacement (30_encoding.md R59, R63). -/
inductive Trailing where
  | noOperand
  | n (b : Byte)
  | nn (first second : Byte)
  | displacement (d : Byte)
deriving DecidableEq, Repr

/-- The kind whose fetch gives these bytes. -/
def Trailing.kind : Trailing → Kind
  | .noOperand => .noOperand
  | .n _ => .n
  | .nn _ _ => .nn
  | .displacement _ => .displacement

/-- The bytes themselves, the first fetched first. -/
def Trailing.bytes : Trailing → List Byte
  | .noOperand => []
  | .n b => [b]
  | .nn first second => [first, second]
  | .displacement d => [d]

/-- The rows of spec/opcode_table.json (REF_TABLE, 30_encoding.md R69), one constructor each, in the spelling of
30_encoding.md R75 with `at` for the parentheses of a memory operand. A row of kind N carries its byte `n`, a row of kind
NN the 16-bit value `nn` its two trailing bytes stand for (30_encoding.md R64, R66). -/
inductive Instr where
  -- NOP (42_nop.md R105)
  | nop
  -- LD r,r' (43_load8.md R108)
  | ld_B_B
  | ld_B_C
  | ld_B_D
  | ld_B_E
  | ld_B_H
  | ld_B_L
  | ld_B_A
  | ld_C_B
  | ld_C_C
  | ld_C_D
  | ld_C_E
  | ld_C_H
  | ld_C_L
  | ld_C_A
  | ld_D_B
  | ld_D_C
  | ld_D_D
  | ld_D_E
  | ld_D_H
  | ld_D_L
  | ld_D_A
  | ld_E_B
  | ld_E_C
  | ld_E_D
  | ld_E_E
  | ld_E_H
  | ld_E_L
  | ld_E_A
  | ld_H_B
  | ld_H_C
  | ld_H_D
  | ld_H_E
  | ld_H_H
  | ld_H_L
  | ld_H_A
  | ld_L_B
  | ld_L_C
  | ld_L_D
  | ld_L_E
  | ld_L_H
  | ld_L_L
  | ld_L_A
  | ld_A_B
  | ld_A_C
  | ld_A_D
  | ld_A_E
  | ld_A_H
  | ld_A_L
  | ld_A_A
  -- LD r,(HL) (43_load8.md R109)
  | ld_B_atHL
  | ld_C_atHL
  | ld_D_atHL
  | ld_E_atHL
  | ld_H_atHL
  | ld_L_atHL
  | ld_A_atHL
  -- LD (HL),r (43_load8.md R110)
  | ld_atHL_B
  | ld_atHL_C
  | ld_atHL_D
  | ld_atHL_E
  | ld_atHL_H
  | ld_atHL_L
  | ld_atHL_A
  -- LD r,n (43_load8.md R111)
  | ld_B_n (n : Byte)
  | ld_C_n (n : Byte)
  | ld_D_n (n : Byte)
  | ld_E_n (n : Byte)
  | ld_H_n (n : Byte)
  | ld_L_n (n : Byte)
  | ld_A_n (n : Byte)
  -- LD (HL),n (43_load8.md R112)
  | ld_atHL_n (n : Byte)
  -- LD (BC),A, LD (DE),A, LD A,(BC), LD A,(DE) (43_load8.md R113 to R116)
  | ld_atBC_A
  | ld_A_atBC
  | ld_atDE_A
  | ld_A_atDE
  -- LD (nn),A and LD A,(nn) (43_load8.md R117, R118)
  | ld_atNN_A (nn : Word)
  | ld_A_atNN (nn : Word)
  -- LD rp,nn (44_load16.md R123)
  | ld_BC_nn (nn : Word)
  | ld_DE_nn (nn : Word)
  | ld_HL_nn (nn : Word)
  | ld_SP_nn (nn : Word)
  -- LD (nn),HL, LD HL,(nn), LD SP,HL (44_load16.md R124 to R126)
  | ld_atNN_HL (nn : Word)
  | ld_HL_atNN (nn : Word)
  | ld_SP_HL
  -- ADD A,r, ADD A,(HL), ADD A,n (45_add.md R128 to R130)
  | add_A_B
  | add_A_C
  | add_A_D
  | add_A_E
  | add_A_H
  | add_A_L
  | add_A_atHL
  | add_A_A
  | add_A_n (n : Byte)
  -- ADD HL,rp (45_add.md R131)
  | add_HL_BC
  | add_HL_DE
  | add_HL_HL
  | add_HL_SP
deriving DecidableEq, Repr

end Sys2Proof
end

