-- ==== Sys2Proof/WellFormed.lean ====
section
/-! DEFINITION. The decidable checks on Instruction values and decode tables (30_encoding.md R74): the admitted Load forms
of 41_operands.md R102 and the selector sets of 10_state.md R23. The machine itself never makes them: Decode copies an
entry unchecked. An `Instr` needs no check of its own: each of its operands may be any byte or any 16-bit value. -/

namespace Sys2Proof

/-- `r` is a name of the 8-bit set (10_state.md R23). -/
def Sel8.valid : Sel8 → Bool
  | .named _ => true
  | .raw _ => false

/-- `p` is a name of the 16-bit set (10_state.md R23). -/
def Sel16.valid : Sel16 → Bool
  | .named _ => true
  | .raw _ => false

/-- Every selector the operand names is in its set. -/
def Operand.selectorsValid : Operand → Bool
  | .reg s => s.valid
  | .reg16 s => s.valid
  | .mem a => a.selectorsValid
  | .imm8 => true
  | .imm16 => true

/-- IX or IY: the bases of displaced-indexed addressing (41_operands.md R99). -/
def Reg16.isIndex : Reg16 → Bool
  | .ix => true
  | .iy => true
  | .pc => false
  | .sp => false
  | .bc => false
  | .de => false
  | .hl => false
  | .af => false

/-- `addr(a, k)` of 41_operands.md R102: `Mem(a)` has an effective address under kind `k` (R98 to R101). -/
def Operand.hasAddress (k : Kind) : Operand → Bool
  | .reg16 (.named p) => if p.isIndex then k == .displacement else k == .noOperand
  | .reg16 (.raw _) => false
  | .imm16 => k == .nn
  | .reg _ => false
  | .mem _ => false
  | .imm8 => false

/-- The five admitted Load forms, L1 to L5 (41_operands.md R102). -/
def Operand.admittedLoad (k : Kind) : Operand → Operand → Bool
  | .reg _, .reg _ => k == .noOperand
  | .reg _, .imm8 => k == .n
  | .reg16 _, .imm16 => k == .nn
  | .reg _, .mem a => a.hasAddress k
  | .mem a, .reg _ => a.hasAddress k
  | _, _ => false

/-- A Load of an admitted form, or not a Load at all (30_encoding.md R74). -/
def Instruction.loadAdmitted (v : Instruction) : Bool :=
  match v.operation with
  | .nop => true
  | .load dst src => dst.admittedLoad v.kind src
  | .add _ _ => true

/-- An Instruction value every operand of which names valid selectors. -/
def Instruction.selectorsValid (v : Instruction) : Bool :=
  match v.operation with
  | .nop => true
  | .load dst src => dst.selectorsValid && src.selectorsValid
  | .add lhs rhs => lhs.selectorsValid && rhs.selectorsValid

/-- An Instruction value whose Load, if it is one, is admitted and names valid selectors. -/
def Instruction.wf (v : Instruction) : Bool := v.loadAdmitted && v.selectorsValid

/-- Every entry of the table passes the check `ok`. -/
def DecodeTable.all (t : DecodeTable) (ok : Instruction → Bool) : Bool :=
  t.toList.all fun plane => plane.toList.all fun row => row.toList.all fun e =>
    match e with
    | none => true
    | some v => ok v

/-- The check of 30_encoding.md R74 on a whole table: every Load it holds is of an admitted form. -/
def DecodeTable.loadsAdmitted (t : DecodeTable) : Bool := DecodeTable.all t Instruction.loadAdmitted

/-- Every entry of the table names valid selectors only (60_exceptions.md R136). -/
def DecodeTable.selectorsValid (t : DecodeTable) : Bool := DecodeTable.all t Instruction.selectorsValid

end Sys2Proof
end

