-- ==== Sys2Proof/Decode.lean ====
section
/-! DEFINITION. Instruction encoding (spec/30_encoding.md): the opcode's bit fields, the decode table and REF_TABLE, the
assembly of immediates and displacements, the decoder from bytes to instructions, and after it the encoder. -/

namespace Sys2Proof

/-! ### Bit fields of the opcode byte -/

/-- `x = b[7:6]` (30_encoding.md R60). -/
def fieldX (b : Byte) : BitVec 2 := ((b >>> 6) &&& 0x03).setWidth 2

/-- `y = b[5:3]` (30_encoding.md R60). -/
def fieldY (b : Byte) : BitVec 3 := ((b >>> 3) &&& 0x07).setWidth 3

/-- `z = b[2:0]` (30_encoding.md R60). -/
def fieldZ (b : Byte) : BitVec 3 := (b &&& 0x07).setWidth 3

/-- `p = y >> 1`, which only describes REF_TABLE (30_encoding.md R61). -/
def fieldP (y : BitVec 3) : BitVec 2 := (y >>> 1).setWidth 2

/-- `q = y & 1`, which only describes REF_TABLE (30_encoding.md R61). -/
def fieldQ (y : BitVec 3) : BitVec 1 := (y &&& 1).setWidth 1

/-! ### Decode tables -/

/-- `P_DECODE_TABLE[x][z][y]` at the fields of `b` (30_encoding.md R62). -/
def DecodeTable.lookup (t : DecodeTable) (b : Byte) : Option Instruction :=
  let plane := t[(fieldX b).toNat]'(fieldX b).isLt
  let row := plane[(fieldZ b).toNat]'(fieldZ b).isLt
  row[(fieldY b).toNat]'(fieldY b).isLt

/-- The table with the entry at opcode `b` replaced: how a non-default `P_DECODE_TABLE` is made from another. -/
def DecodeTable.place (t : DecodeTable) (b : Byte) (e : Option Instruction) : DecodeTable :=
  let plane := t[(fieldX b).toNat]'(fieldX b).isLt
  let row := plane[(fieldZ b).toNat]'(fieldZ b).isLt
  t.set (fieldX b).toNat
    (plane.set (fieldZ b).toNat (row.set (fieldY b).toNat e (fieldY b).isLt) (fieldZ b).isLt) (fieldX b).isLt

/-- The table with no entry at all: every opcode is a miss. -/
def DecodeTable.empty : DecodeTable := Vector.replicate 4 (Vector.replicate 8 (Vector.replicate 8 none))

/-! ### REF_TABLE -/

/-- The 3-bit register field `r[k]` (30_encoding.md R67). PRESUMED by the spec from the Zilog layout (log entry 9). -/
def rField (k : BitVec 3) : Operand :=
  match k.toNat with
  | 0 => .r8 .b
  | 1 => .r8 .c
  | 2 => .r8 .d
  | 3 => .r8 .e
  | 4 => .r8 .h
  | 5 => .r8 .l
  | 6 => .mem (.r16 .hl)
  | _ => .r8 .a

/-- The 2-bit pair field `rp[p]` (30_encoding.md R68). PRESUMED by the spec but for BC (log entry 9). -/
def rpField (p : BitVec 2) : Operand :=
  match p.toNat with
  | 0 => .r16 .bc
  | 1 => .r16 .de
  | 2 => .r16 .hl
  | _ => .r16 .sp

/-- The entries of REF_TABLE with x = 0 and z = 2, by q and p (30_encoding.md R69). -/
def refEntryIndirect (q : BitVec 1) (p : BitVec 2) : Instruction :=
  match q.toNat, p.toNat with
  | 0, 0 => ⟨.noOperand, .load (.mem (.r16 .bc)) (.r8 .a)⟩
  | 0, 1 => ⟨.noOperand, .load (.mem (.r16 .de)) (.r8 .a)⟩
  | 0, 2 => ⟨.nn, .load (.mem .imm16) (.r16 .hl)⟩
  | 0, _ => ⟨.nn, .load (.mem .imm16) (.r8 .a)⟩
  | _, 0 => ⟨.noOperand, .load (.r8 .a) (.mem (.r16 .bc))⟩
  | _, 1 => ⟨.noOperand, .load (.r8 .a) (.mem (.r16 .de))⟩
  | _, 2 => ⟨.nn, .load (.r16 .hl) (.mem .imm16)⟩
  | _, _ => ⟨.nn, .load (.r8 .a) (.mem .imm16)⟩

/-- The rows of REF_TABLE by their conditions on the fields (30_encoding.md R69): 98 entries, and no entry elsewhere.
PRESUMED by the spec from the Zilog layout, but for 0x01 (log entry 9). -/
def refEntry (x : BitVec 2) (z y : BitVec 3) : Option Instruction :=
  match x.toNat, z.toNat, y.toNat with
  | 0, 0, 0 => some ⟨.noOperand, .nop⟩
  | 0, 1, _ =>
    if fieldQ y = 0 then some ⟨.nn, .load (rpField (fieldP y)) .imm16⟩
    else some ⟨.noOperand, .add (.r16 .hl) (rpField (fieldP y))⟩
  | 0, 2, _ => some (refEntryIndirect (fieldQ y) (fieldP y))
  | 0, 6, _ => some ⟨.n, .load (rField y) .imm8⟩
  | 1, 6, 6 => none
  | 1, _, _ => some ⟨.noOperand, .load (rField y) (rField z)⟩
  | 2, _, 0 => some ⟨.noOperand, .add (.r8 .a) (rField z)⟩
  | 3, 6, 0 => some ⟨.n, .add (.r8 .a) .imm8⟩
  | 3, 1, 7 => some ⟨.noOperand, .load (.r16 .sp) (.r16 .hl)⟩
  | _, _, _ => none

/-- `REF_TABLE[x][z]`, its eight entries by y. -/
def refRow (x : BitVec 2) (z : BitVec 3) : Vector (Option Instruction) 8 :=
  #v[refEntry x z 0, refEntry x z 1, refEntry x z 2, refEntry x z 3,
     refEntry x z 4, refEntry x z 5, refEntry x z 6, refEntry x z 7]

/-- `REF_TABLE[x]`, its eight rows by z. -/
def refPlane (x : BitVec 2) : Vector (Vector (Option Instruction) 8) 8 :=
  #v[refRow x 0, refRow x 1, refRow x 2, refRow x 3, refRow x 4, refRow x 5, refRow x 6, refRow x 7]

/-- REF_TABLE, the default of `P_DECODE_TABLE` (00_scope.md R9, 30_encoding.md R69). -/
def refTable : DecodeTable := #v[refPlane 0, refPlane 1, refPlane 2, refPlane 3]

/-! ### Trailing bytes, immediates and displacements -/

/-- How many trailing bytes a kind declares (30_encoding.md R63). -/
def Kind.trailing : Kind → Nat
  | .noOperand => 0
  | .n => 1
  | .nn => 2
  | .displacement => 1

/-- The length of an instruction: its opcode byte and its trailing bytes (30_encoding.md R58). -/
def Instruction.length (v : Instruction) : Nat := 1 + v.kind.trailing

/-- The 16-bit immediate, low byte first: `bytes[1] << 8 | bytes[0]` (30_encoding.md R66). -/
def imm16 (first second : Byte) : Word := (second.setWidth 16 <<< 8) ||| first.setWidth 16

/-- The first trailing byte of a 16-bit immediate, its low byte (30_encoding.md R59, R66). -/
def imm16First (nn : Word) : Byte := nn.setWidth 8

/-- The second trailing byte of a 16-bit immediate, its high byte (30_encoding.md R59, R66). -/
def imm16Second (nn : Word) : Byte := (nn >>> 8).setWidth 8

/-- The displacement byte as a signed quantity modulo 2^16, `sext_16` (00_scope.md R12, 30_encoding.md R65). -/
def displacement (d : Byte) : Word := d.signExtend 16

/-- The trailing bytes of a kind, taken from the head of a byte list, with the rest of it; none if the list is short. -/
def takeTrailing : Kind → List Byte → Option (Trailing × List Byte)
  | .noOperand, rest => some (.noOperand, rest)
  | .n, b :: rest => some (.n b, rest)
  | .nn, first :: second :: rest => some (.nn first second, rest)
  | .displacement, d :: rest => some (.displacement d, rest)
  | .n, [] => none
  | .nn, [] => none
  | .nn, [_] => none
  | .displacement, [] => none

/-! ### From an operation and its bytes to a row of REF_TABLE -/

/-- The row `LD r,r'` of these registers; F, I and R have none (30_encoding.md R67, R69). -/
def ldRegRegRow : Reg8 → Reg8 → Option Instr
  | .b, .b => some .ld_B_B
  | .b, .c => some .ld_B_C
  | .b, .d => some .ld_B_D
  | .b, .e => some .ld_B_E
  | .b, .h => some .ld_B_H
  | .b, .l => some .ld_B_L
  | .b, .a => some .ld_B_A
  | .c, .b => some .ld_C_B
  | .c, .c => some .ld_C_C
  | .c, .d => some .ld_C_D
  | .c, .e => some .ld_C_E
  | .c, .h => some .ld_C_H
  | .c, .l => some .ld_C_L
  | .c, .a => some .ld_C_A
  | .d, .b => some .ld_D_B
  | .d, .c => some .ld_D_C
  | .d, .d => some .ld_D_D
  | .d, .e => some .ld_D_E
  | .d, .h => some .ld_D_H
  | .d, .l => some .ld_D_L
  | .d, .a => some .ld_D_A
  | .e, .b => some .ld_E_B
  | .e, .c => some .ld_E_C
  | .e, .d => some .ld_E_D
  | .e, .e => some .ld_E_E
  | .e, .h => some .ld_E_H
  | .e, .l => some .ld_E_L
  | .e, .a => some .ld_E_A
  | .h, .b => some .ld_H_B
  | .h, .c => some .ld_H_C
  | .h, .d => some .ld_H_D
  | .h, .e => some .ld_H_E
  | .h, .h => some .ld_H_H
  | .h, .l => some .ld_H_L
  | .h, .a => some .ld_H_A
  | .l, .b => some .ld_L_B
  | .l, .c => some .ld_L_C
  | .l, .d => some .ld_L_D
  | .l, .e => some .ld_L_E
  | .l, .h => some .ld_L_H
  | .l, .l => some .ld_L_L
  | .l, .a => some .ld_L_A
  | .a, .b => some .ld_A_B
  | .a, .c => some .ld_A_C
  | .a, .d => some .ld_A_D
  | .a, .e => some .ld_A_E
  | .a, .h => some .ld_A_H
  | .a, .l => some .ld_A_L
  | .a, .a => some .ld_A_A
  | _, _ => none

/-- The row `LD r,(rr)` of this register and base. -/
def ldRegAtRow : Reg8 → Reg16 → Option Instr
  | .b, .hl => some .ld_B_atHL
  | .c, .hl => some .ld_C_atHL
  | .d, .hl => some .ld_D_atHL
  | .e, .hl => some .ld_E_atHL
  | .h, .hl => some .ld_H_atHL
  | .l, .hl => some .ld_L_atHL
  | .a, .hl => some .ld_A_atHL
  | .a, .bc => some .ld_A_atBC
  | .a, .de => some .ld_A_atDE
  | _, _ => none

/-- The row `LD (rr),r` of this base and register. -/
def ldAtRegRow : Reg16 → Reg8 → Option Instr
  | .hl, .b => some .ld_atHL_B
  | .hl, .c => some .ld_atHL_C
  | .hl, .d => some .ld_atHL_D
  | .hl, .e => some .ld_atHL_E
  | .hl, .h => some .ld_atHL_H
  | .hl, .l => some .ld_atHL_L
  | .hl, .a => some .ld_atHL_A
  | .bc, .a => some .ld_atBC_A
  | .de, .a => some .ld_atDE_A
  | _, _ => none

/-- The row `LD r,n` of this register. -/
def ldRegImmRow (n : Byte) : Reg8 → Option Instr
  | .b => some (.ld_B_n n)
  | .c => some (.ld_C_n n)
  | .d => some (.ld_D_n n)
  | .e => some (.ld_E_n n)
  | .h => some (.ld_H_n n)
  | .l => some (.ld_L_n n)
  | .a => some (.ld_A_n n)
  | .f => none
  | .i => none
  | .r => none

/-- The row `LD rp,nn` of this pair or register. -/
def ldPairImmRow (nn : Word) : Reg16 → Option Instr
  | .bc => some (.ld_BC_nn nn)
  | .de => some (.ld_DE_nn nn)
  | .hl => some (.ld_HL_nn nn)
  | .sp => some (.ld_SP_nn nn)
  | .pc => none
  | .ix => none
  | .iy => none
  | .af => none

/-- The row `ADD A,r` of this register. -/
def addRegRow : Reg8 → Option Instr
  | .b => some .add_A_B
  | .c => some .add_A_C
  | .d => some .add_A_D
  | .e => some .add_A_E
  | .h => some .add_A_H
  | .l => some .add_A_L
  | .a => some .add_A_A
  | .f => none
  | .i => none
  | .r => none

/-- The row `ADD HL,rp` of this pair or register. -/
def addPairRow : Reg16 → Option Instr
  | .bc => some .add_HL_BC
  | .de => some .add_HL_DE
  | .hl => some .add_HL_HL
  | .sp => some .add_HL_SP
  | .pc => none
  | .ix => none
  | .iy => none
  | .af => none

/-- The row of REF_TABLE that a Load with these operands and trailing bytes is, if it is one. -/
def loadRow (dst src : Operand) (t : Trailing) : Option Instr :=
  match t, dst, src with
  | .noOperand, .reg (.named dst), .reg (.named src) => ldRegRegRow dst src
  | .noOperand, .reg (.named dst), .mem (.reg16 (.named base)) => ldRegAtRow dst base
  | .noOperand, .mem (.reg16 (.named base)), .reg (.named src) => ldAtRegRow base src
  | .noOperand, .reg16 (.named .sp), .reg16 (.named .hl) => some .ld_SP_HL
  | .n b, .reg (.named dst), .imm8 => ldRegImmRow b dst
  | .n b, .mem (.reg16 (.named .hl)), .imm8 => some (.ld_atHL_n b)
  | .nn lo hi, .reg16 (.named p), .imm16 => ldPairImmRow (imm16 lo hi) p
  | .nn lo hi, .mem .imm16, .reg (.named .a) => some (.ld_atNN_A (imm16 lo hi))
  | .nn lo hi, .reg (.named .a), .mem .imm16 => some (.ld_A_atNN (imm16 lo hi))
  | .nn lo hi, .mem .imm16, .reg16 (.named .hl) => some (.ld_atNN_HL (imm16 lo hi))
  | .nn lo hi, .reg16 (.named .hl), .mem .imm16 => some (.ld_HL_atNN (imm16 lo hi))
  | _, _, _ => none

/-- The row of REF_TABLE that an Add with these operands and trailing bytes is, if it is one. -/
def addRow (lhs rhs : Operand) (t : Trailing) : Option Instr :=
  match t, lhs, rhs with
  | .noOperand, .reg (.named .a), .reg (.named s) => addRegRow s
  | .noOperand, .reg (.named .a), .mem (.reg16 (.named .hl)) => some .add_A_atHL
  | .n b, .reg (.named .a), .imm8 => some (.add_A_n b)
  | .noOperand, .reg16 (.named .hl), .reg16 (.named p) => addPairRow p
  | _, _, _ => none

/-- The row of REF_TABLE that an operation with these trailing bytes is, if it is one: the operation and the kind of a row
determine it. -/
def Instr.ofFetched (op : Operation) (t : Trailing) : Option Instr :=
  match op with
  | .nop => match t with
    | .noOperand => some .nop
    | .n _ => none
    | .nn _ _ => none
    | .displacement _ => none
  | .load dst src => loadRow dst src t
  | .add lhs rhs => addRow lhs rhs t

/-! ### The decoder -/

/-- What the decoder reads from a byte list: a row of REF_TABLE; an entry of another table that is no such row; a miss,
which the machine runs as the placeholder (30_encoding.md R70); or a rejection by name of a list too short to hold the
instruction. -/
inductive Decoded where
  | row (i : Instr) (rest : List Byte)
  | entry (v : Instruction) (t : Trailing) (rest : List Byte)
  | miss (b : Byte) (rest : List Byte)
  | truncated (b : Byte)
  | empty
deriving DecidableEq, Repr

/-- Decoding by a table: look the opcode byte up, then take the trailing bytes its kind declares (30_encoding.md R58). -/
def decodeWith (table : DecodeTable) : List Byte → Decoded
  | [] => .empty
  | b :: rest =>
    match DecodeTable.lookup table b with
    | none => .miss b rest
    | some v =>
      match takeTrailing v.kind rest with
      | none => .truncated b
      | some (t, rest') =>
        match Instr.ofFetched v.operation t with
        | some i => .row i rest'
        | none => .entry v t rest'

/-- Decoding by REF_TABLE. -/
def decode (bytes : List Byte) : Decoded := decodeWith refTable bytes

/-- The three bytes of a number in the opcode table's bit order: bits 7:0 are the byte at the lowest address, and bits at
or above `nbits` read zero. -/
def tableWordBytes (nbits w : Nat) : List Byte :=
  let v := w % 2 ^ nbits
  [BitVec.ofNat 8 v, BitVec.ofNat 8 (v / 256), BitVec.ofNat 8 (v / 65536)]

/-- The instruction the decoder reads from bits numbered as spec/opcode_table.json numbers them. -/
def decodeTableWord (nbits w : Nat) : Option Instr :=
  match decode (tableWordBytes nbits w) with
  | .row i _ => some i
  | .entry _ _ _ => none
  | .miss _ _ => none
  | .truncated _ => none
  | .empty => none

/-! ### The encoder -/

/-- The opcode byte of a row, as spec/opcode_table.json gives it. -/
def Instr.opcode : Instr → Byte
  | .nop => 0x00
  | .ld_BC_nn _ => 0x01
  | .ld_atBC_A => 0x02
  | .ld_B_n _ => 0x06
  | .add_HL_BC => 0x09
  | .ld_A_atBC => 0x0A
  | .ld_C_n _ => 0x0E
  | .ld_DE_nn _ => 0x11
  | .ld_atDE_A => 0x12
  | .ld_D_n _ => 0x16
  | .add_HL_DE => 0x19
  | .ld_A_atDE => 0x1A
  | .ld_E_n _ => 0x1E
  | .ld_HL_nn _ => 0x21
  | .ld_atNN_HL _ => 0x22
  | .ld_H_n _ => 0x26
  | .add_HL_HL => 0x29
  | .ld_HL_atNN _ => 0x2A
  | .ld_L_n _ => 0x2E
  | .ld_SP_nn _ => 0x31
  | .ld_atNN_A _ => 0x32
  | .ld_atHL_n _ => 0x36
  | .add_HL_SP => 0x39
  | .ld_A_atNN _ => 0x3A
  | .ld_A_n _ => 0x3E
  | .ld_B_B => 0x40
  | .ld_B_C => 0x41
  | .ld_B_D => 0x42
  | .ld_B_E => 0x43
  | .ld_B_H => 0x44
  | .ld_B_L => 0x45
  | .ld_B_atHL => 0x46
  | .ld_B_A => 0x47
  | .ld_C_B => 0x48
  | .ld_C_C => 0x49
  | .ld_C_D => 0x4A
  | .ld_C_E => 0x4B
  | .ld_C_H => 0x4C
  | .ld_C_L => 0x4D
  | .ld_C_atHL => 0x4E
  | .ld_C_A => 0x4F
  | .ld_D_B => 0x50
  | .ld_D_C => 0x51
  | .ld_D_D => 0x52
  | .ld_D_E => 0x53
  | .ld_D_H => 0x54
  | .ld_D_L => 0x55
  | .ld_D_atHL => 0x56
  | .ld_D_A => 0x57
  | .ld_E_B => 0x58
  | .ld_E_C => 0x59
  | .ld_E_D => 0x5A
  | .ld_E_E => 0x5B
  | .ld_E_H => 0x5C
  | .ld_E_L => 0x5D
  | .ld_E_atHL => 0x5E
  | .ld_E_A => 0x5F
  | .ld_H_B => 0x60
  | .ld_H_C => 0x61
  | .ld_H_D => 0x62
  | .ld_H_E => 0x63
  | .ld_H_H => 0x64
  | .ld_H_L => 0x65
  | .ld_H_atHL => 0x66
  | .ld_H_A => 0x67
  | .ld_L_B => 0x68
  | .ld_L_C => 0x69
  | .ld_L_D => 0x6A
  | .ld_L_E => 0x6B
  | .ld_L_H => 0x6C
  | .ld_L_L => 0x6D
  | .ld_L_atHL => 0x6E
  | .ld_L_A => 0x6F
  | .ld_atHL_B => 0x70
  | .ld_atHL_C => 0x71
  | .ld_atHL_D => 0x72
  | .ld_atHL_E => 0x73
  | .ld_atHL_H => 0x74
  | .ld_atHL_L => 0x75
  | .ld_atHL_A => 0x77
  | .ld_A_B => 0x78
  | .ld_A_C => 0x79
  | .ld_A_D => 0x7A
  | .ld_A_E => 0x7B
  | .ld_A_H => 0x7C
  | .ld_A_L => 0x7D
  | .ld_A_atHL => 0x7E
  | .ld_A_A => 0x7F
  | .add_A_B => 0x80
  | .add_A_C => 0x81
  | .add_A_D => 0x82
  | .add_A_E => 0x83
  | .add_A_H => 0x84
  | .add_A_L => 0x85
  | .add_A_atHL => 0x86
  | .add_A_A => 0x87
  | .add_A_n _ => 0xC6
  | .ld_SP_HL => 0xF9

/-- The trailing bytes of an instruction, `nn` low byte first (30_encoding.md R59, R76). -/
def Instr.trailing : Instr → Trailing
  | .nop => .noOperand
  | .ld_BC_nn nn => .nn (imm16First nn) (imm16Second nn)
  | .ld_atBC_A => .noOperand
  | .ld_B_n n => .n n
  | .add_HL_BC => .noOperand
  | .ld_A_atBC => .noOperand
  | .ld_C_n n => .n n
  | .ld_DE_nn nn => .nn (imm16First nn) (imm16Second nn)
  | .ld_atDE_A => .noOperand
  | .ld_D_n n => .n n
  | .add_HL_DE => .noOperand
  | .ld_A_atDE => .noOperand
  | .ld_E_n n => .n n
  | .ld_HL_nn nn => .nn (imm16First nn) (imm16Second nn)
  | .ld_atNN_HL nn => .nn (imm16First nn) (imm16Second nn)
  | .ld_H_n n => .n n
  | .add_HL_HL => .noOperand
  | .ld_HL_atNN nn => .nn (imm16First nn) (imm16Second nn)
  | .ld_L_n n => .n n
  | .ld_SP_nn nn => .nn (imm16First nn) (imm16Second nn)
  | .ld_atNN_A nn => .nn (imm16First nn) (imm16Second nn)
  | .ld_atHL_n n => .n n
  | .add_HL_SP => .noOperand
  | .ld_A_atNN nn => .nn (imm16First nn) (imm16Second nn)
  | .ld_A_n n => .n n
  | .ld_B_B => .noOperand
  | .ld_B_C => .noOperand
  | .ld_B_D => .noOperand
  | .ld_B_E => .noOperand
  | .ld_B_H => .noOperand
  | .ld_B_L => .noOperand
  | .ld_B_atHL => .noOperand
  | .ld_B_A => .noOperand
  | .ld_C_B => .noOperand
  | .ld_C_C => .noOperand
  | .ld_C_D => .noOperand
  | .ld_C_E => .noOperand
  | .ld_C_H => .noOperand
  | .ld_C_L => .noOperand
  | .ld_C_atHL => .noOperand
  | .ld_C_A => .noOperand
  | .ld_D_B => .noOperand
  | .ld_D_C => .noOperand
  | .ld_D_D => .noOperand
  | .ld_D_E => .noOperand
  | .ld_D_H => .noOperand
  | .ld_D_L => .noOperand
  | .ld_D_atHL => .noOperand
  | .ld_D_A => .noOperand
  | .ld_E_B => .noOperand
  | .ld_E_C => .noOperand
  | .ld_E_D => .noOperand
  | .ld_E_E => .noOperand
  | .ld_E_H => .noOperand
  | .ld_E_L => .noOperand
  | .ld_E_atHL => .noOperand
  | .ld_E_A => .noOperand
  | .ld_H_B => .noOperand
  | .ld_H_C => .noOperand
  | .ld_H_D => .noOperand
  | .ld_H_E => .noOperand
  | .ld_H_H => .noOperand
  | .ld_H_L => .noOperand
  | .ld_H_atHL => .noOperand
  | .ld_H_A => .noOperand
  | .ld_L_B => .noOperand
  | .ld_L_C => .noOperand
  | .ld_L_D => .noOperand
  | .ld_L_E => .noOperand
  | .ld_L_H => .noOperand
  | .ld_L_L => .noOperand
  | .ld_L_atHL => .noOperand
  | .ld_L_A => .noOperand
  | .ld_atHL_B => .noOperand
  | .ld_atHL_C => .noOperand
  | .ld_atHL_D => .noOperand
  | .ld_atHL_E => .noOperand
  | .ld_atHL_H => .noOperand
  | .ld_atHL_L => .noOperand
  | .ld_atHL_A => .noOperand
  | .ld_A_B => .noOperand
  | .ld_A_C => .noOperand
  | .ld_A_D => .noOperand
  | .ld_A_E => .noOperand
  | .ld_A_H => .noOperand
  | .ld_A_L => .noOperand
  | .ld_A_atHL => .noOperand
  | .ld_A_A => .noOperand
  | .add_A_B => .noOperand
  | .add_A_C => .noOperand
  | .add_A_D => .noOperand
  | .add_A_E => .noOperand
  | .add_A_H => .noOperand
  | .add_A_L => .noOperand
  | .add_A_atHL => .noOperand
  | .add_A_A => .noOperand
  | .add_A_n n => .n n
  | .ld_SP_HL => .noOperand

/-- The Instruction value of a row: its kind and operation (30_encoding.md R69, spec/opcode_table.json). -/
def Instr.template : Instr → Instruction
  | .nop => ⟨.noOperand, .nop⟩
  | .ld_BC_nn _ => ⟨.nn, .load (.r16 .bc) .imm16⟩
  | .ld_atBC_A => ⟨.noOperand, .load (.mem (.r16 .bc)) (.r8 .a)⟩
  | .ld_B_n _ => ⟨.n, .load (.r8 .b) .imm8⟩
  | .add_HL_BC => ⟨.noOperand, .add (.r16 .hl) (.r16 .bc)⟩
  | .ld_A_atBC => ⟨.noOperand, .load (.r8 .a) (.mem (.r16 .bc))⟩
  | .ld_C_n _ => ⟨.n, .load (.r8 .c) .imm8⟩
  | .ld_DE_nn _ => ⟨.nn, .load (.r16 .de) .imm16⟩
  | .ld_atDE_A => ⟨.noOperand, .load (.mem (.r16 .de)) (.r8 .a)⟩
  | .ld_D_n _ => ⟨.n, .load (.r8 .d) .imm8⟩
  | .add_HL_DE => ⟨.noOperand, .add (.r16 .hl) (.r16 .de)⟩
  | .ld_A_atDE => ⟨.noOperand, .load (.r8 .a) (.mem (.r16 .de))⟩
  | .ld_E_n _ => ⟨.n, .load (.r8 .e) .imm8⟩
  | .ld_HL_nn _ => ⟨.nn, .load (.r16 .hl) .imm16⟩
  | .ld_atNN_HL _ => ⟨.nn, .load (.mem .imm16) (.r16 .hl)⟩
  | .ld_H_n _ => ⟨.n, .load (.r8 .h) .imm8⟩
  | .add_HL_HL => ⟨.noOperand, .add (.r16 .hl) (.r16 .hl)⟩
  | .ld_HL_atNN _ => ⟨.nn, .load (.r16 .hl) (.mem .imm16)⟩
  | .ld_L_n _ => ⟨.n, .load (.r8 .l) .imm8⟩
  | .ld_SP_nn _ => ⟨.nn, .load (.r16 .sp) .imm16⟩
  | .ld_atNN_A _ => ⟨.nn, .load (.mem .imm16) (.r8 .a)⟩
  | .ld_atHL_n _ => ⟨.n, .load (.mem (.r16 .hl)) .imm8⟩
  | .add_HL_SP => ⟨.noOperand, .add (.r16 .hl) (.r16 .sp)⟩
  | .ld_A_atNN _ => ⟨.nn, .load (.r8 .a) (.mem .imm16)⟩
  | .ld_A_n _ => ⟨.n, .load (.r8 .a) .imm8⟩
  | .ld_B_B => ⟨.noOperand, .load (.r8 .b) (.r8 .b)⟩
  | .ld_B_C => ⟨.noOperand, .load (.r8 .b) (.r8 .c)⟩
  | .ld_B_D => ⟨.noOperand, .load (.r8 .b) (.r8 .d)⟩
  | .ld_B_E => ⟨.noOperand, .load (.r8 .b) (.r8 .e)⟩
  | .ld_B_H => ⟨.noOperand, .load (.r8 .b) (.r8 .h)⟩
  | .ld_B_L => ⟨.noOperand, .load (.r8 .b) (.r8 .l)⟩
  | .ld_B_atHL => ⟨.noOperand, .load (.r8 .b) (.mem (.r16 .hl))⟩
  | .ld_B_A => ⟨.noOperand, .load (.r8 .b) (.r8 .a)⟩
  | .ld_C_B => ⟨.noOperand, .load (.r8 .c) (.r8 .b)⟩
  | .ld_C_C => ⟨.noOperand, .load (.r8 .c) (.r8 .c)⟩
  | .ld_C_D => ⟨.noOperand, .load (.r8 .c) (.r8 .d)⟩
  | .ld_C_E => ⟨.noOperand, .load (.r8 .c) (.r8 .e)⟩
  | .ld_C_H => ⟨.noOperand, .load (.r8 .c) (.r8 .h)⟩
  | .ld_C_L => ⟨.noOperand, .load (.r8 .c) (.r8 .l)⟩
  | .ld_C_atHL => ⟨.noOperand, .load (.r8 .c) (.mem (.r16 .hl))⟩
  | .ld_C_A => ⟨.noOperand, .load (.r8 .c) (.r8 .a)⟩
  | .ld_D_B => ⟨.noOperand, .load (.r8 .d) (.r8 .b)⟩
  | .ld_D_C => ⟨.noOperand, .load (.r8 .d) (.r8 .c)⟩
  | .ld_D_D => ⟨.noOperand, .load (.r8 .d) (.r8 .d)⟩
  | .ld_D_E => ⟨.noOperand, .load (.r8 .d) (.r8 .e)⟩
  | .ld_D_H => ⟨.noOperand, .load (.r8 .d) (.r8 .h)⟩
  | .ld_D_L => ⟨.noOperand, .load (.r8 .d) (.r8 .l)⟩
  | .ld_D_atHL => ⟨.noOperand, .load (.r8 .d) (.mem (.r16 .hl))⟩
  | .ld_D_A => ⟨.noOperand, .load (.r8 .d) (.r8 .a)⟩
  | .ld_E_B => ⟨.noOperand, .load (.r8 .e) (.r8 .b)⟩
  | .ld_E_C => ⟨.noOperand, .load (.r8 .e) (.r8 .c)⟩
  | .ld_E_D => ⟨.noOperand, .load (.r8 .e) (.r8 .d)⟩
  | .ld_E_E => ⟨.noOperand, .load (.r8 .e) (.r8 .e)⟩
  | .ld_E_H => ⟨.noOperand, .load (.r8 .e) (.r8 .h)⟩
  | .ld_E_L => ⟨.noOperand, .load (.r8 .e) (.r8 .l)⟩
  | .ld_E_atHL => ⟨.noOperand, .load (.r8 .e) (.mem (.r16 .hl))⟩
  | .ld_E_A => ⟨.noOperand, .load (.r8 .e) (.r8 .a)⟩
  | .ld_H_B => ⟨.noOperand, .load (.r8 .h) (.r8 .b)⟩
  | .ld_H_C => ⟨.noOperand, .load (.r8 .h) (.r8 .c)⟩
  | .ld_H_D => ⟨.noOperand, .load (.r8 .h) (.r8 .d)⟩
  | .ld_H_E => ⟨.noOperand, .load (.r8 .h) (.r8 .e)⟩
  | .ld_H_H => ⟨.noOperand, .load (.r8 .h) (.r8 .h)⟩
  | .ld_H_L => ⟨.noOperand, .load (.r8 .h) (.r8 .l)⟩
  | .ld_H_atHL => ⟨.noOperand, .load (.r8 .h) (.mem (.r16 .hl))⟩
  | .ld_H_A => ⟨.noOperand, .load (.r8 .h) (.r8 .a)⟩
  | .ld_L_B => ⟨.noOperand, .load (.r8 .l) (.r8 .b)⟩
  | .ld_L_C => ⟨.noOperand, .load (.r8 .l) (.r8 .c)⟩
  | .ld_L_D => ⟨.noOperand, .load (.r8 .l) (.r8 .d)⟩
  | .ld_L_E => ⟨.noOperand, .load (.r8 .l) (.r8 .e)⟩
  | .ld_L_H => ⟨.noOperand, .load (.r8 .l) (.r8 .h)⟩
  | .ld_L_L => ⟨.noOperand, .load (.r8 .l) (.r8 .l)⟩
  | .ld_L_atHL => ⟨.noOperand, .load (.r8 .l) (.mem (.r16 .hl))⟩
  | .ld_L_A => ⟨.noOperand, .load (.r8 .l) (.r8 .a)⟩
  | .ld_atHL_B => ⟨.noOperand, .load (.mem (.r16 .hl)) (.r8 .b)⟩
  | .ld_atHL_C => ⟨.noOperand, .load (.mem (.r16 .hl)) (.r8 .c)⟩
  | .ld_atHL_D => ⟨.noOperand, .load (.mem (.r16 .hl)) (.r8 .d)⟩
  | .ld_atHL_E => ⟨.noOperand, .load (.mem (.r16 .hl)) (.r8 .e)⟩
  | .ld_atHL_H => ⟨.noOperand, .load (.mem (.r16 .hl)) (.r8 .h)⟩
  | .ld_atHL_L => ⟨.noOperand, .load (.mem (.r16 .hl)) (.r8 .l)⟩
  | .ld_atHL_A => ⟨.noOperand, .load (.mem (.r16 .hl)) (.r8 .a)⟩
  | .ld_A_B => ⟨.noOperand, .load (.r8 .a) (.r8 .b)⟩
  | .ld_A_C => ⟨.noOperand, .load (.r8 .a) (.r8 .c)⟩
  | .ld_A_D => ⟨.noOperand, .load (.r8 .a) (.r8 .d)⟩
  | .ld_A_E => ⟨.noOperand, .load (.r8 .a) (.r8 .e)⟩
  | .ld_A_H => ⟨.noOperand, .load (.r8 .a) (.r8 .h)⟩
  | .ld_A_L => ⟨.noOperand, .load (.r8 .a) (.r8 .l)⟩
  | .ld_A_atHL => ⟨.noOperand, .load (.r8 .a) (.mem (.r16 .hl))⟩
  | .ld_A_A => ⟨.noOperand, .load (.r8 .a) (.r8 .a)⟩
  | .add_A_B => ⟨.noOperand, .add (.r8 .a) (.r8 .b)⟩
  | .add_A_C => ⟨.noOperand, .add (.r8 .a) (.r8 .c)⟩
  | .add_A_D => ⟨.noOperand, .add (.r8 .a) (.r8 .d)⟩
  | .add_A_E => ⟨.noOperand, .add (.r8 .a) (.r8 .e)⟩
  | .add_A_H => ⟨.noOperand, .add (.r8 .a) (.r8 .h)⟩
  | .add_A_L => ⟨.noOperand, .add (.r8 .a) (.r8 .l)⟩
  | .add_A_atHL => ⟨.noOperand, .add (.r8 .a) (.mem (.r16 .hl))⟩
  | .add_A_A => ⟨.noOperand, .add (.r8 .a) (.r8 .a)⟩
  | .add_A_n _ => ⟨.n, .add (.r8 .a) .imm8⟩
  | .ld_SP_HL => ⟨.noOperand, .load (.r16 .sp) (.r16 .hl)⟩

/-- The bytes of an instruction: the opcode, then the trailing bytes (30_encoding.md R76). -/
def encode (i : Instr) : List Byte := i.opcode :: i.trailing.bytes

end Sys2Proof
end

