-- ==== Sys2Proof/Machine/State.lean ====
section
/-! DEFINITION. The state of the machine as plain data (spec/10_state.md), the reasons a tick can give, construction, and
`State.reset`. Every value that shows behaviour is read and written through Machine/Ops.lean. -/

namespace Sys2Proof.Machine

/-- The register file: ten 8-bit and four 16-bit registers, each its own storage (10_state.md R15, R16). The pairs BC, DE,
HL and AF are computed views and have no field (10_state.md R18). -/
structure Regs where
  a : Byte
  b : Byte
  c : Byte
  d : Byte
  e : Byte
  h : Byte
  l : Byte
  f : Byte
  i : Byte
  r : Byte
  pc : Word
  sp : Word
  ix : Word
  iy : Word
deriving DecidableEq, Repr

/-- The two memories (10_state.md R34). -/
inductive MemId where
  | imem | dmem
deriving DecidableEq, Repr

/-- A byte array of capacity `cap` (20_memory.md R38). `cells` lists, in rising order, the addresses whose byte differs
from `Config.unplacedByte`, with that byte (`Memory.wf`). -/
structure Memory where
  cap : Nat
  cells : List Host.Cell
deriving DecidableEq, Repr

/-- The pipeline stage (10_state.md R30). -/
inductive Stage where
  | fetch | decode | exec | writeback
deriving DecidableEq, Repr

/-- The error kinds, with the information each records (60_exceptions.md R133 to R137). -/
inductive EngineError where
  /-- An access of `width` bytes at `addr` leaves the capacity of `mem` (R134). -/
  | outOfBounds (mem : MemId) (addr width : Nat)
  /-- The operand combination has no defined semantics; every Add (R135). -/
  | unsupportedOperandForm
  /-- A selector outside the register sets (R136). -/
  | registerNotFound
  /-- Decode with no pending opcode, or Exec with no current instruction (R137). -/
  | emptyOpcode
deriving DecidableEq, Repr

/-- What a tick returns (40_cycle.md R78): Ok, Ok with the warning `DecodeMiss(b)`, or an error. -/
inductive TickResult where
  | ok
  | okDecodeMiss (b : Byte)
  | err (e : EngineError)
deriving DecidableEq, Repr

/-- The machine's state: the tuple of spec/10_state.md, the decode table as the parameter it is (00_scope.md R9, log entry
4), and the last tick's answer (log entry 2). -/
structure State where
  /-- The register file (10_state.md R15, R16). -/
  regs : Regs
  /-- Instruction memory (10_state.md R34). -/
  imem : Memory
  /-- Data memory (10_state.md R34). -/
  dmem : Memory
  /-- The pipeline stage (10_state.md R30). -/
  stage : Stage
  /-- The opcode byte fetched and not yet decoded (10_state.md R31). -/
  pending : Option Byte
  /-- The currently decoded Instruction (10_state.md R32). -/
  current : Option Instruction
  /-- How many decode misses there have been (10_state.md R33). -/
  decodeMisses : Nat
  /-- `P_DECODE_TABLE` (00_scope.md R9): read by Decode, written by nothing (10_state.md R35). -/
  table : DecodeTable
  /-- The answer of the last tick, none before the first (40_cycle.md R78). The model's own field: every tick writes it
  and none reads it (60_exceptions.md R141: the machine does not remember an error). -/
  lastResult : Option TickResult
deriving DecidableEq, Repr

/-- The reasons for which a tick stops the machine with a fault: there are NONE. Every error of the spec but EmptyOpcode
leaves a state from which the host may tick on (60_exceptions.md R139, R141), so it is a next state whose `lastResult` is
the error (log entry 2). Safe: nothing is claimed of a stop that the spec does not have. -/
inductive Fault where
deriving DecidableEq, Repr

/-- The reasons for which a tick has no meaning. -/
inductive Refusal where
  /-- An arm of `exec` whose instruction has no meaning yet; no arm raises it. Safe. -/
  | notModelled (mnemonic : String)
  /-- Decode with no pending opcode or Exec with no current instruction: a violated invariant, which a model treats as a
  refusal (60_exceptions.md R137; log entry 3). Raised by the Decode and Exec ticks. `after` is the state the spec says
  the tick leaves, stage Fetch and the error in `lastResult` (40_cycle.md R82, R87). Safe: no state the machine reaches
  from construction raises it. -/
  | emptyOpcode (after : State)
deriving DecidableEq, Repr

/-- What a tick answers. -/
abbrev Answer := Host.Outcome State Fault Refusal

/-- What the constructor's caller chooses (00_scope.md R5 to R9, 70_reset_and_hazards.md R153): the start address, the
other registers (the `pc` of `initRegs` is not used), the decode table, and the two memories with their capacities and
the bytes they hold at construction. -/
structure Params where
  startAddr : Word
  initRegs : Regs
  imem : Memory
  dmem : Memory
  table : DecodeTable
deriving DecidableEq, Repr

/-- The state at construction (10_state.md R36, 70_reset_and_hazards.md R150 to R152). -/
def State.construct (P : Params) : State where
  regs := { P.initRegs with pc := P.startAddr }
  imem := P.imem
  dmem := P.dmem
  stage := .fetch
  pending := none
  current := none
  decodeMisses := 0
  table := P.table
  lastResult := none

/-- The parameters of `State.reset`: the spec's default capacities and table, and for the open parameters the values named
in Config.lean (log entries 5 to 9). -/
def Params.default : Params where
  startAddr := Config.startAddr
  initRegs :=
    { a := Config.initByte, b := Config.initByte, c := Config.initByte, d := Config.initByte, e := Config.initByte
      h := Config.initByte, l := Config.initByte, f := Config.initByte, i := Config.initByte, r := Config.initByte
      pc := Config.startAddr, sp := Config.initWord, ix := Config.initWord, iy := Config.initWord }
  imem := ⟨Config.defaultCapacity, []⟩
  dmem := ⟨Config.defaultCapacity, []⟩
  table := refTable

/-- The machine right after reset: construction is the only reset (70_reset_and_hazards.md R149). -/
def State.reset : State := State.construct Params.default

end Sys2Proof.Machine
end

