-- ==== Sys2Proof/Machine/Ops.lean ====
section
/-! DEFINITION. The shared operations: memory access through the Addressable contract (spec/20_memory.md), the register
file and its pair views (spec/10_state.md), fetching from instruction memory, completing an instruction, and raising an
error (spec/40_cycle.md R88, spec/60_exceptions.md R139). -/

namespace Sys2Proof.Machine

/-! ### Cells: the canonical list behind a memory -/

/-- The byte at an address of a cell list. -/
def readCell : List Host.Cell → Nat → Byte
  | [], _ => Config.unplacedByte
  | (c, v) :: rest, addr => if addr = c then v else readCell rest addr

/-- The cell list with the byte at an address replaced; it stays in rising order and lists no unplaced byte. -/
def writeCell : List Host.Cell → Nat → Byte → List Host.Cell
  | [], addr, b => if b = Config.unplacedByte then [] else [(addr, b)]
  | (c, v) :: rest, addr, b =>
    if addr < c then
      if b = Config.unplacedByte then (c, v) :: rest else (addr, b) :: (c, v) :: rest
    else if addr = c then
      if b = Config.unplacedByte then rest else (c, b) :: rest
    else
      (c, v) :: writeCell rest addr b

/-- The canonical form: addresses strictly rising and below the capacity, no cell equal to what an unlisted address reads
as, and a capacity of at least 1 (00_scope.md R5). -/
abbrev Memory.wf (m : Memory) : Prop :=
  m.cells.Pairwise (fun x y => x.1 < y.1) ∧ (∀ c ∈ m.cells, c.1 < m.cap ∧ c.2 ≠ Config.unplacedByte) ∧ 1 ≤ m.cap

/-! ### The Addressable contract -/

/-- An access of `width` bytes at `addr` lies within the capacity: `addr + width - 1 < cap`, as integers (20_memory.md R42,
R43; log entry 17). -/
def Memory.inBounds (m : Memory) (addr width : Nat) : Bool := decide (addr + width ≤ m.cap)

/-- The byte `M.data[addr]`, with no bounds check: each access below makes it. -/
def Memory.byteAt (m : Memory) (addr : Nat) : Byte := readCell m.cells addr

/-- The memory with `M.data[addr]` replaced, with no bounds check: each access below makes it. -/
def Memory.setByte (m : Memory) (addr : Nat) (b : Byte) : Memory := { m with cells := writeCell m.cells addr b }

/-- `get(addr, 1)` (20_memory.md R39); none is out of bounds (R43). -/
def Memory.get1 (m : Memory) (addr : Nat) : Option Byte :=
  if m.inBounds addr 1 then some (m.byteAt addr) else none

/-- `get(addr, 2)`, big-endian, the second byte at `addr + 1` as a natural number (20_memory.md R40, R43). -/
def Memory.get2 (m : Memory) (addr : Nat) : Option Word :=
  if m.inBounds addr 2 then
    some (((m.byteAt addr).setWidth 16 <<< 8) ||| (m.byteAt (addr + 1)).setWidth 16)
  else none

/-- `set(addr, 1, v)` (20_memory.md R41); none is out of bounds, with no byte changed (R43). -/
def Memory.set1 (m : Memory) (addr : Nat) (v : Byte) : Option Memory :=
  if m.inBounds addr 1 then some (m.setByte addr v) else none

/-- `set(addr, 2, v)`, big-endian (20_memory.md R41, R43). -/
def Memory.set2 (m : Memory) (addr : Nat) (v : Word) : Option Memory :=
  if m.inBounds addr 2 then
    some ((m.setByte addr ((v >>> 8).setWidth 8)).setByte (addr + 1) (v.setWidth 8))
  else none

/-- The bytes `M.data[addr .. addr+count-1]`, with no bounds check. -/
def Memory.bytesFrom (m : Memory) (addr : Nat) : Nat → List Byte
  | 0 => []
  | count + 1 => m.byteAt addr :: m.bytesFrom (addr + 1) count

/-- The memory with `bytes[k]` at `addr + k` for each k, with no bounds check. -/
def Memory.setBytes (m : Memory) (addr : Nat) : List Byte → Memory
  | [] => m
  | b :: rest => (m.setByte addr b).setBytes (addr + 1) rest

/-- `load(addr, count)` (20_memory.md R42, R43). -/
def Memory.load (m : Memory) (addr count : Nat) : Option (List Byte) :=
  if m.inBounds addr count then some (m.bytesFrom addr count) else none

/-- `store(addr, bytes)`; a failing bulk access writes nothing (20_memory.md R42, R43). -/
def Memory.store (m : Memory) (addr : Nat) (bytes : List Byte) : Option Memory :=
  if m.inBounds addr bytes.length then some (m.setBytes addr bytes) else none

/-! ### The register file -/

/-- `read8(r)` (10_state.md R15). -/
def Regs.read8 (g : Regs) : Reg8 → Byte
  | .a => g.a
  | .b => g.b
  | .c => g.c
  | .d => g.d
  | .e => g.e
  | .h => g.h
  | .l => g.l
  | .f => g.f
  | .i => g.i
  | .r => g.r

/-- `write8(r, v)` (10_state.md R15, R17). -/
def Regs.write8 (g : Regs) (reg : Reg8) (v : Byte) : Regs :=
  match reg with
  | .a => { g with a := v }
  | .b => { g with b := v }
  | .c => { g with c := v }
  | .d => { g with d := v }
  | .e => { g with e := v }
  | .h => { g with h := v }
  | .l => { g with l := v }
  | .f => { g with f := v }
  | .i => { g with i := v }
  | .r => { g with r := v }

/-- The two constituents of a pair, `high` first (10_state.md R18; log entry 10); none for a true 16-bit register. -/
def pairHalves : Reg16 → Option (Reg8 × Reg8)
  | .bc => some (.b, .c)
  | .de => some (.d, .e)
  | .hl => some (.h, .l)
  | .af => some (.a, .f)
  | .pc => none
  | .sp => none
  | .ix => none
  | .iy => none

/-- A pair's value from its constituents: `high | (low << 8)` (10_state.md R19). -/
def pairValue (high low : Byte) : Word := high.setWidth 16 ||| (low.setWidth 16 <<< 8)

/-- What a pair's `high` constituent takes of a written value: `v[7:0]` (10_state.md R20). -/
def pairHigh (v : Word) : Byte := v.setWidth 8

/-- What a pair's `low` constituent takes of a written value: `v[15:8]` (10_state.md R20). -/
def pairLow (v : Word) : Byte := (v >>> 8).setWidth 8

/-- `read16(p)` (10_state.md R19, R22). -/
def Regs.read16 (g : Regs) : Reg16 → Word
  | .pc => g.pc
  | .sp => g.sp
  | .ix => g.ix
  | .iy => g.iy
  | .bc => pairValue g.b g.c
  | .de => pairValue g.d g.e
  | .hl => pairValue g.h g.l
  | .af => pairValue g.a g.f

/-- `write16(p, v)` (10_state.md R20, R22). -/
def Regs.write16 (g : Regs) (p : Reg16) (v : Word) : Regs :=
  match p with
  | .pc => { g with pc := v }
  | .sp => { g with sp := v }
  | .ix => { g with ix := v }
  | .iy => { g with iy := v }
  | .bc => (g.write8 .b (pairHigh v)).write8 .c (pairLow v)
  | .de => (g.write8 .d (pairHigh v)).write8 .e (pairLow v)
  | .hl => (g.write8 .h (pairHigh v)).write8 .l (pairLow v)
  | .af => (g.write8 .a (pairHigh v)).write8 .f (pairLow v)

/-- `advance(n)`: PC plus `n`, masked to 16 bits (10_state.md R25, R26). -/
def Regs.advance (g : Regs) (n : Nat) : Regs := g.write16 .pc (BitVec.ofNat 16 ((g.read16 .pc).toNat + n))

/-- A selector resolved to a register, or RegisterNotFound (10_state.md R23, 60_exceptions.md R136). -/
def resolve8 : Sel8 → Except EngineError Reg8
  | .named reg => .ok reg
  | .raw _ => .error .registerNotFound

/-- A selector resolved to a register or pair, or RegisterNotFound (10_state.md R23, 60_exceptions.md R136). -/
def resolve16 : Sel16 → Except EngineError Reg16
  | .named reg => .ok reg
  | .raw _ => .error .registerNotFound

/-! ### The same on the state -/

/-- `read8(r)` of the state. -/
def State.read8 (s : State) (reg : Reg8) : Byte := s.regs.read8 reg

/-- `write8(r, v)` of the state. -/
def State.write8 (s : State) (reg : Reg8) (v : Byte) : State := { s with regs := s.regs.write8 reg v }

/-- `read16(p)` of the state. -/
def State.read16 (s : State) (p : Reg16) : Word := s.regs.read16 p

/-- `write16(p, v)` of the state. -/
def State.write16 (s : State) (p : Reg16) (v : Word) : State := { s with regs := s.regs.write16 p v }

/-- `advance(n)` of the state. -/
def State.advance (s : State) (n : Nat) : State := { s with regs := s.regs.advance n }

/-- One of the two memories. -/
def State.mem (s : State) : MemId → Memory
  | .imem => s.imem
  | .dmem => s.dmem

/-- The state with one of its memories replaced. -/
def State.setMem (s : State) (M : MemId) (m : Memory) : State :=
  match M with
  | .imem => { s with imem := m }
  | .dmem => { s with dmem := m }

/-- `MemRead(M, addr, 1)`, or OutOfBounds (20_memory.md R39, R43; 60_exceptions.md R134). -/
def State.memRead (s : State) (M : MemId) (addr : Nat) : Except EngineError Byte :=
  match (s.mem M).get1 addr with
  | some v => .ok v
  | none => .error (.outOfBounds M addr 1)

/-- `MemWrite(M, addr, 1, v)`, or OutOfBounds (20_memory.md R41, R43; 60_exceptions.md R134). -/
def State.memWrite (s : State) (M : MemId) (addr : Nat) (v : Byte) : Except EngineError State :=
  match (s.mem M).set1 addr v with
  | some m => .ok (s.setMem M m)
  | none => .error (.outOfBounds M addr 1)

/-! ### Fetching from instruction memory -/

/-- Fetch one byte at PC and advance PC by 1 (40_cycle.md R79, R84), or OutOfBounds with nothing changed (R80, R85). -/
def fetchByte (s : State) : Except EngineError (Byte × State) :=
  match s.memRead .imem (s.read16 .pc).toNat with
  | .ok b => .ok (b, s.advance 1)
  | .error e => .error e

/-- Fetch the trailing bytes of a kind, one at a time (40_cycle.md R84). A failing fetch gives its error with the state
that keeps the advances already made (R85). -/
def fetchTrailing (k : Kind) (s : State) : Except (EngineError × State) (Trailing × State) :=
  match k with
  | .noOperand => .ok (.noOperand, s)
  | .n =>
    match fetchByte s with
    | .ok (b, s1) => .ok (.n b, s1)
    | .error e => .error (e, s)
  | .displacement =>
    match fetchByte s with
    | .ok (d, s1) => .ok (.displacement d, s1)
    | .error e => .error (e, s)
  | .nn =>
    match fetchByte s with
    | .ok (first, s1) =>
      match fetchByte s1 with
      | .ok (second, s2) => .ok (.nn first second, s2)
      | .error e => .error (e, s1)
    | .error e => .error (e, s)

/-! ### Ending a tick -/

/-- The Exec tick ends with no error: stage Writeback, result Ok (40_cycle.md R86). -/
def State.completed (s : State) : State := { s with stage := .writeback, lastResult := some .ok }

/-- Entering an error: the tick returns it and the stage is Fetch. It saves nothing, sets no mode, and transfers control
nowhere; the next tick fetches at the current PC, which is the return (40_cycle.md R88, 60_exceptions.md R139, R141). -/
def State.aborted (s : State) (e : EngineError) : State := { s with stage := .fetch, lastResult := some (.err e) }

/-- The Exec tick ends with no error in this state. -/
def complete (s : State) : Answer := .next s.completed

/-- The tick raises this error in this state. -/
def raise (e : EngineError) (s : State) : Answer := .next (s.aborted e)

end Sys2Proof.Machine
end

