-- ==== Sys2Proof/Machine/Operands.lean ====
section
/-! DEFINITION. Operand resolution (spec/41_operands.md): effective addresses, the admitted Load forms, their check order
and effects, and the application of any operation with its trailing bytes. -/

namespace Sys2Proof.Machine

/-! ### Effective addresses -/

/-- The address of a displaced-indexed operand: base plus signed displacement modulo 2^16 (41_operands.md R99; log entry 12). -/
def indexedAddress (s : State) (p : Reg16) (d : Byte) : Word := s.read16 p + displacement d

/-- The effective address of `Mem(a)` with these trailing bytes, if the form has one (41_operands.md R98 to R101). A raw
selector has none (log entry 14). -/
def effectiveAddress (s : State) (t : Trailing) (a : Operand) : Option Word :=
  match t, a with
  | .noOperand, .reg16 (.named p) => if p.isIndex then none else some (s.read16 p)
  | .displacement d, .reg16 (.named p) => if p.isIndex then some (indexedAddress s p d) else none
  | .nn first second, .imm16 => some (imm16 first second)
  | _, _ => none

/-! ### The effects of the five admitted forms -/

/-- L1: copy an 8-bit register (41_operands.md R102). -/
def loadRegReg (dst src : Reg8) (s : State) : Answer := complete (s.write8 dst (s.read8 src))

/-- L2: an 8-bit immediate into a register (41_operands.md R102). -/
def loadRegImm (dst : Reg8) (n : Byte) (s : State) : Answer := complete (s.write8 dst n)

/-- L3: a 16-bit immediate into a register or pair (41_operands.md R102). -/
def loadReg16Imm (dst : Reg16) (nn : Word) (s : State) : Answer := complete (s.write16 dst nn)

/-- L4: a byte of data memory into a register (41_operands.md R102), or OutOfBounds with the register unchanged (R103). -/
def loadRegMem (dst : Reg8) (ea : Word) (s : State) : Answer :=
  match s.memRead .dmem ea.toNat with
  | .ok v => complete (s.write8 dst v)
  | .error e => raise e s

/-- L5: a register into a byte of data memory (41_operands.md R102), or OutOfBounds with memory unchanged (R103). -/
def storeMemReg (ea : Word) (src : Reg8) (s : State) : Answer :=
  match s.memWrite .dmem ea.toNat (s.read8 src) with
  | .ok s' => complete s'
  | .error e => raise e s

/-- A form with no defined semantics, every Add among them (41_operands.md R102, 45_add.md, 60_exceptions.md R135). -/
def unsupported (s : State) : Answer := raise .unsupportedOperandForm s

/-! ### The form check -/

/-- An admitted Load, with its effective address or immediate already assembled (41_operands.md R102). -/
inductive LoadForm where
  | regReg (dst src : Sel8)
  | regImm (dst : Sel8) (n : Byte)
  | reg16Imm (dst : Sel16) (nn : Word)
  | regMem (dst : Sel8) (ea : Word)
  | memReg (ea : Word) (src : Sel8)
deriving DecidableEq, Repr

/-- The form of `Load(dst, src)` with these trailing bytes, if it is one of L1 to L5 (41_operands.md R102). -/
def loadForm (s : State) (t : Trailing) (dst src : Operand) : Option LoadForm :=
  match dst, src, t with
  | .reg d, .reg r, .noOperand => some (.regReg d r)
  | .reg d, .imm8, .n b => some (.regImm d b)
  | .reg16 p, .imm16, .nn first second => some (.reg16Imm p (imm16 first second))
  | .reg d, .mem a, t => (effectiveAddress s t a).map (.regMem d)
  | .mem a, .reg r, t => (effectiveAddress s t a).map (.memReg · r)
  | _, _, _ => none

/-- Resolve the selectors of an admitted form, then access memory and write: steps 3 to 5 of 41_operands.md R103. -/
def performLoad (form : LoadForm) (s : State) : Answer :=
  match form with
  | .regReg d r =>
    match resolve8 d, resolve8 r with
    | .ok dst, .ok src => loadRegReg dst src s
    | _, _ => raise .registerNotFound s
  | .regImm d n =>
    match resolve8 d with
    | .ok dst => loadRegImm dst n s
    | .error e => raise e s
  | .reg16Imm p nn =>
    match resolve16 p with
    | .ok dst => loadReg16Imm dst nn s
    | .error e => raise e s
  | .regMem d ea =>
    match resolve8 d with
    | .ok dst => loadRegMem dst ea s
    | .error e => raise e s
  | .memReg ea r =>
    match resolve8 r with
    | .ok src => storeMemReg ea src s
    | .error e => raise e s

/-- `Load(dst, src)`: the form check first (41_operands.md R103), then the form's effect. -/
def applyLoad (t : Trailing) (dst src : Operand) (s : State) : Answer :=
  match loadForm s t dst src with
  | some form => performLoad form s
  | none => unsupported s

/-- Apply any operation to the state after the trailing fetch (40_cycle.md R86): Nop changes nothing (42_nop.md R105 to
R107), Load follows 41_operands.md R102 and R103, every Add is unsupported (45_add.md R132). -/
def applyOperation (op : Operation) (t : Trailing) (s : State) : Answer :=
  match op with
  | .nop => complete s
  | .load dst src => applyLoad t dst src s
  | .add _ _ => unsupported s

end Sys2Proof.Machine
end

