-- ==== Sys2Proof/Machine/Add.lean ====
section
/-! DEFINITION. Add, an operation with no semantics (spec/45_add.md): one meaning per row of the opcode table. Each acts on the state after the
trailing fetch (40_cycle.md R86); its operands are the fetched bytes, assembled. -/

namespace Sys2Proof.Machine

/-! ### ADD A,r: no semantics; it raises UnsupportedOperandForm (45_add.md R128) -/

/-- 0x80, ADD A,B (R128). -/
def execAdd_A_B (s : State) : Answer := unsupported s

/-- 0x81, ADD A,C (R128). -/
def execAdd_A_C (s : State) : Answer := unsupported s

/-- 0x82, ADD A,D (R128). -/
def execAdd_A_D (s : State) : Answer := unsupported s

/-- 0x83, ADD A,E (R128). -/
def execAdd_A_E (s : State) : Answer := unsupported s

/-- 0x84, ADD A,H (R128). -/
def execAdd_A_H (s : State) : Answer := unsupported s

/-- 0x85, ADD A,L (R128). -/
def execAdd_A_L (s : State) : Answer := unsupported s

/-- 0x87, ADD A,A (R128). -/
def execAdd_A_A (s : State) : Answer := unsupported s

/-! ### ADD A,(HL): no semantics and no memory read; it raises UnsupportedOperandForm (45_add.md R129) -/

/-- 0x86, ADD A,(HL) (R129). -/
def execAdd_A_atHL (s : State) : Answer := unsupported s

/-! ### ADD A,n: no semantics; it raises UnsupportedOperandForm (45_add.md R130) -/

/-- 0xC6, ADD A,n (R130). -/
def execAdd_A_n (_n : Byte) (s : State) : Answer := unsupported s

/-! ### ADD HL,rp: no semantics; it raises UnsupportedOperandForm (45_add.md R131) -/

/-- 0x09, ADD HL,BC (R131). -/
def execAdd_HL_BC (s : State) : Answer := unsupported s

/-- 0x19, ADD HL,DE (R131). -/
def execAdd_HL_DE (s : State) : Answer := unsupported s

/-- 0x29, ADD HL,HL (R131). -/
def execAdd_HL_HL (s : State) : Answer := unsupported s

/-- 0x39, ADD HL,SP (R131). -/
def execAdd_HL_SP (s : State) : Answer := unsupported s

end Sys2Proof.Machine
end

