-- ==== Sys2Proof/Machine/Load16.lean ====
section
/-! DEFINITION. The 16-bit loads (spec/44_load16.md): one meaning per row of the opcode table. Each acts on the state after the
trailing fetch (40_cycle.md R86); its operands are the fetched bytes, assembled. -/

namespace Sys2Proof.Machine

/-! ### LD rp,nn: the 16-bit immediate, form L3 (44_load16.md R123) -/

/-- 0x01, LD BC,nn (R123). -/
def execLd_BC_nn (nn : Word) (s : State) : Answer := loadReg16Imm .bc nn s

/-- 0x11, LD DE,nn (R123). -/
def execLd_DE_nn (nn : Word) (s : State) : Answer := loadReg16Imm .de nn s

/-- 0x21, LD HL,nn (R123). -/
def execLd_HL_nn (nn : Word) (s : State) : Answer := loadReg16Imm .hl nn s

/-- 0x31, LD SP,nn (R123). -/
def execLd_SP_nn (nn : Word) (s : State) : Answer := loadReg16Imm .sp nn s

/-! ### LD (nn),HL: not an admitted form; it raises UnsupportedOperandForm (44_load16.md R124) -/

/-- 0x22, LD (nn),HL (R124). -/
def execLd_atNN_HL (_nn : Word) (s : State) : Answer := unsupported s

/-! ### LD HL,(nn): not an admitted form; it raises UnsupportedOperandForm (44_load16.md R125) -/

/-- 0x2A, LD HL,(nn) (R125). -/
def execLd_HL_atNN (_nn : Word) (s : State) : Answer := unsupported s

/-! ### LD SP,HL: not an admitted form; it raises UnsupportedOperandForm (44_load16.md R126) -/

/-- 0xF9, LD SP,HL (R126). -/
def execLd_SP_HL (s : State) : Answer := unsupported s

end Sys2Proof.Machine
end

