-- ==== Sys2Proof/Machine/Load8.lean ====
section
/-! DEFINITION. The 8-bit loads (spec/43_load8.md): one meaning per row of the opcode table. Each acts on the state after the
trailing fetch (40_cycle.md R86); its operands are the fetched bytes, assembled. -/

namespace Sys2Proof.Machine

/-! ### LD r,r': write8(r[y], read8(r[z])), form L1 (43_load8.md R108) -/

/-- 0x40, LD B,B (R108). -/
def execLd_B_B (s : State) : Answer := loadRegReg .b .b s

/-- 0x41, LD B,C (R108). -/
def execLd_B_C (s : State) : Answer := loadRegReg .b .c s

/-- 0x42, LD B,D (R108). -/
def execLd_B_D (s : State) : Answer := loadRegReg .b .d s

/-- 0x43, LD B,E (R108). -/
def execLd_B_E (s : State) : Answer := loadRegReg .b .e s

/-- 0x44, LD B,H (R108). -/
def execLd_B_H (s : State) : Answer := loadRegReg .b .h s

/-- 0x45, LD B,L (R108). -/
def execLd_B_L (s : State) : Answer := loadRegReg .b .l s

/-- 0x47, LD B,A (R108). -/
def execLd_B_A (s : State) : Answer := loadRegReg .b .a s

/-- 0x48, LD C,B (R108). -/
def execLd_C_B (s : State) : Answer := loadRegReg .c .b s

/-- 0x49, LD C,C (R108). -/
def execLd_C_C (s : State) : Answer := loadRegReg .c .c s

/-- 0x4A, LD C,D (R108). -/
def execLd_C_D (s : State) : Answer := loadRegReg .c .d s

/-- 0x4B, LD C,E (R108). -/
def execLd_C_E (s : State) : Answer := loadRegReg .c .e s

/-- 0x4C, LD C,H (R108). -/
def execLd_C_H (s : State) : Answer := loadRegReg .c .h s

/-- 0x4D, LD C,L (R108). -/
def execLd_C_L (s : State) : Answer := loadRegReg .c .l s

/-- 0x4F, LD C,A (R108). -/
def execLd_C_A (s : State) : Answer := loadRegReg .c .a s

/-- 0x50, LD D,B (R108). -/
def execLd_D_B (s : State) : Answer := loadRegReg .d .b s

/-- 0x51, LD D,C (R108). -/
def execLd_D_C (s : State) : Answer := loadRegReg .d .c s

/-- 0x52, LD D,D (R108). -/
def execLd_D_D (s : State) : Answer := loadRegReg .d .d s

/-- 0x53, LD D,E (R108). -/
def execLd_D_E (s : State) : Answer := loadRegReg .d .e s

/-- 0x54, LD D,H (R108). -/
def execLd_D_H (s : State) : Answer := loadRegReg .d .h s

/-- 0x55, LD D,L (R108). -/
def execLd_D_L (s : State) : Answer := loadRegReg .d .l s

/-- 0x57, LD D,A (R108). -/
def execLd_D_A (s : State) : Answer := loadRegReg .d .a s

/-- 0x58, LD E,B (R108). -/
def execLd_E_B (s : State) : Answer := loadRegReg .e .b s

/-- 0x59, LD E,C (R108). -/
def execLd_E_C (s : State) : Answer := loadRegReg .e .c s

/-- 0x5A, LD E,D (R108). -/
def execLd_E_D (s : State) : Answer := loadRegReg .e .d s

/-- 0x5B, LD E,E (R108). -/
def execLd_E_E (s : State) : Answer := loadRegReg .e .e s

/-- 0x5C, LD E,H (R108). -/
def execLd_E_H (s : State) : Answer := loadRegReg .e .h s

/-- 0x5D, LD E,L (R108). -/
def execLd_E_L (s : State) : Answer := loadRegReg .e .l s

/-- 0x5F, LD E,A (R108). -/
def execLd_E_A (s : State) : Answer := loadRegReg .e .a s

/-- 0x60, LD H,B (R108). -/
def execLd_H_B (s : State) : Answer := loadRegReg .h .b s

/-- 0x61, LD H,C (R108). -/
def execLd_H_C (s : State) : Answer := loadRegReg .h .c s

/-- 0x62, LD H,D (R108). -/
def execLd_H_D (s : State) : Answer := loadRegReg .h .d s

/-- 0x63, LD H,E (R108). -/
def execLd_H_E (s : State) : Answer := loadRegReg .h .e s

/-- 0x64, LD H,H (R108). -/
def execLd_H_H (s : State) : Answer := loadRegReg .h .h s

/-- 0x65, LD H,L (R108). -/
def execLd_H_L (s : State) : Answer := loadRegReg .h .l s

/-- 0x67, LD H,A (R108). -/
def execLd_H_A (s : State) : Answer := loadRegReg .h .a s

/-- 0x68, LD L,B (R108). -/
def execLd_L_B (s : State) : Answer := loadRegReg .l .b s

/-- 0x69, LD L,C (R108). -/
def execLd_L_C (s : State) : Answer := loadRegReg .l .c s

/-- 0x6A, LD L,D (R108). -/
def execLd_L_D (s : State) : Answer := loadRegReg .l .d s

/-- 0x6B, LD L,E (R108). -/
def execLd_L_E (s : State) : Answer := loadRegReg .l .e s

/-- 0x6C, LD L,H (R108). -/
def execLd_L_H (s : State) : Answer := loadRegReg .l .h s

/-- 0x6D, LD L,L (R108). -/
def execLd_L_L (s : State) : Answer := loadRegReg .l .l s

/-- 0x6F, LD L,A (R108). -/
def execLd_L_A (s : State) : Answer := loadRegReg .l .a s

/-- 0x78, LD A,B (R108). -/
def execLd_A_B (s : State) : Answer := loadRegReg .a .b s

/-- 0x79, LD A,C (R108). -/
def execLd_A_C (s : State) : Answer := loadRegReg .a .c s

/-- 0x7A, LD A,D (R108). -/
def execLd_A_D (s : State) : Answer := loadRegReg .a .d s

/-- 0x7B, LD A,E (R108). -/
def execLd_A_E (s : State) : Answer := loadRegReg .a .e s

/-- 0x7C, LD A,H (R108). -/
def execLd_A_H (s : State) : Answer := loadRegReg .a .h s

/-- 0x7D, LD A,L (R108). -/
def execLd_A_L (s : State) : Answer := loadRegReg .a .l s

/-- 0x7F, LD A,A (R108). -/
def execLd_A_A (s : State) : Answer := loadRegReg .a .a s

/-! ### LD r,(HL): the byte of data memory at read16(HL), form L4 (43_load8.md R109) -/

/-- 0x46, LD B,(HL) (R109). -/
def execLd_B_atHL (s : State) : Answer := loadRegMem .b (s.read16 .hl) s

/-- 0x4E, LD C,(HL) (R109). -/
def execLd_C_atHL (s : State) : Answer := loadRegMem .c (s.read16 .hl) s

/-- 0x56, LD D,(HL) (R109). -/
def execLd_D_atHL (s : State) : Answer := loadRegMem .d (s.read16 .hl) s

/-- 0x5E, LD E,(HL) (R109). -/
def execLd_E_atHL (s : State) : Answer := loadRegMem .e (s.read16 .hl) s

/-- 0x66, LD H,(HL) (R109). -/
def execLd_H_atHL (s : State) : Answer := loadRegMem .h (s.read16 .hl) s

/-- 0x6E, LD L,(HL) (R109). -/
def execLd_L_atHL (s : State) : Answer := loadRegMem .l (s.read16 .hl) s

/-- 0x7E, LD A,(HL) (R109). -/
def execLd_A_atHL (s : State) : Answer := loadRegMem .a (s.read16 .hl) s

/-! ### LD (HL),r: a register to the byte of data memory at read16(HL), form L5 (43_load8.md R110) -/

/-- 0x70, LD (HL),B (R110). -/
def execLd_atHL_B (s : State) : Answer := storeMemReg (s.read16 .hl) .b s

/-- 0x71, LD (HL),C (R110). -/
def execLd_atHL_C (s : State) : Answer := storeMemReg (s.read16 .hl) .c s

/-- 0x72, LD (HL),D (R110). -/
def execLd_atHL_D (s : State) : Answer := storeMemReg (s.read16 .hl) .d s

/-- 0x73, LD (HL),E (R110). -/
def execLd_atHL_E (s : State) : Answer := storeMemReg (s.read16 .hl) .e s

/-- 0x74, LD (HL),H (R110). -/
def execLd_atHL_H (s : State) : Answer := storeMemReg (s.read16 .hl) .h s

/-- 0x75, LD (HL),L (R110). -/
def execLd_atHL_L (s : State) : Answer := storeMemReg (s.read16 .hl) .l s

/-- 0x77, LD (HL),A (R110). -/
def execLd_atHL_A (s : State) : Answer := storeMemReg (s.read16 .hl) .a s

/-! ### LD r,n: the trailing byte, form L2 (43_load8.md R111) -/

/-- 0x06, LD B,n (R111). -/
def execLd_B_n (n : Byte) (s : State) : Answer := loadRegImm .b n s

/-- 0x0E, LD C,n (R111). -/
def execLd_C_n (n : Byte) (s : State) : Answer := loadRegImm .c n s

/-- 0x16, LD D,n (R111). -/
def execLd_D_n (n : Byte) (s : State) : Answer := loadRegImm .d n s

/-- 0x1E, LD E,n (R111). -/
def execLd_E_n (n : Byte) (s : State) : Answer := loadRegImm .e n s

/-- 0x26, LD H,n (R111). -/
def execLd_H_n (n : Byte) (s : State) : Answer := loadRegImm .h n s

/-- 0x2E, LD L,n (R111). -/
def execLd_L_n (n : Byte) (s : State) : Answer := loadRegImm .l n s

/-- 0x3E, LD A,n (R111). -/
def execLd_A_n (n : Byte) (s : State) : Answer := loadRegImm .a n s

/-! ### LD (HL),n: not an admitted form; it raises UnsupportedOperandForm (43_load8.md R112) -/

/-- 0x36, LD (HL),n (R112). -/
def execLd_atHL_n (_n : Byte) (s : State) : Answer := unsupported s

/-! ### LD (BC),A, form L5 (43_load8.md R113) -/

/-- 0x02, LD (BC),A (R113). -/
def execLd_atBC_A (s : State) : Answer := storeMemReg (s.read16 .bc) .a s

/-! ### LD (DE),A, form L5 (43_load8.md R114) -/

/-- 0x12, LD (DE),A (R114). -/
def execLd_atDE_A (s : State) : Answer := storeMemReg (s.read16 .de) .a s

/-! ### LD A,(BC), form L4 (43_load8.md R115) -/

/-- 0x0A, LD A,(BC) (R115). -/
def execLd_A_atBC (s : State) : Answer := loadRegMem .a (s.read16 .bc) s

/-! ### LD A,(DE), form L4 (43_load8.md R116) -/

/-- 0x1A, LD A,(DE) (R116). -/
def execLd_A_atDE (s : State) : Answer := loadRegMem .a (s.read16 .de) s

/-! ### LD (nn),A: absolute store, form L5 (43_load8.md R117) -/

/-- 0x32, LD (nn),A (R117). -/
def execLd_atNN_A (nn : Word) (s : State) : Answer := storeMemReg nn .a s

/-! ### LD A,(nn): absolute load, form L4 (43_load8.md R118) -/

/-- 0x3A, LD A,(nn) (R118). -/
def execLd_A_atNN (nn : Word) (s : State) : Answer := loadRegMem .a nn s

end Sys2Proof.Machine
end

