-- ==== Sys2Proof/Machine/Nop.lean ====
section
/-! DEFINITION. No-operation (spec/42_nop.md): one meaning per row of the opcode table. Each acts on the state after the
trailing fetch (40_cycle.md R86); its operands are the fetched bytes, assembled. -/

namespace Sys2Proof.Machine

/-! ### NOP: no state change (42_nop.md R105) -/

/-- 0x00, NOP (R105). -/
def execNop (s : State) : Answer := complete s

end Sys2Proof.Machine
end

