-- ==== Sys2Proof/Machine/Dispatch.lean ====
section
/-! DEFINITION. The dispatch from a row of the opcode table to its meaning, one arm per constructor of `Instr`. -/

namespace Sys2Proof.Machine

-- What an instruction does once its trailing bytes are fetched (40_cycle.md R86).
def exec (i : Instr) (s : State) : Host.Outcome State Fault Refusal :=
  match i with
  | .nop => Sys2Proof.Machine.execNop s
  | .ld_B_B => Sys2Proof.Machine.execLd_B_B s
  | .ld_B_C => Sys2Proof.Machine.execLd_B_C s
  | .ld_B_D => Sys2Proof.Machine.execLd_B_D s
  | .ld_B_E => Sys2Proof.Machine.execLd_B_E s
  | .ld_B_H => Sys2Proof.Machine.execLd_B_H s
  | .ld_B_L => Sys2Proof.Machine.execLd_B_L s
  | .ld_B_A => Sys2Proof.Machine.execLd_B_A s
  | .ld_C_B => Sys2Proof.Machine.execLd_C_B s
  | .ld_C_C => Sys2Proof.Machine.execLd_C_C s
  | .ld_C_D => Sys2Proof.Machine.execLd_C_D s
  | .ld_C_E => Sys2Proof.Machine.execLd_C_E s
  | .ld_C_H => Sys2Proof.Machine.execLd_C_H s
  | .ld_C_L => Sys2Proof.Machine.execLd_C_L s
  | .ld_C_A => Sys2Proof.Machine.execLd_C_A s
  | .ld_D_B => Sys2Proof.Machine.execLd_D_B s
  | .ld_D_C => Sys2Proof.Machine.execLd_D_C s
  | .ld_D_D => Sys2Proof.Machine.execLd_D_D s
  | .ld_D_E => Sys2Proof.Machine.execLd_D_E s
  | .ld_D_H => Sys2Proof.Machine.execLd_D_H s
  | .ld_D_L => Sys2Proof.Machine.execLd_D_L s
  | .ld_D_A => Sys2Proof.Machine.execLd_D_A s
  | .ld_E_B => Sys2Proof.Machine.execLd_E_B s
  | .ld_E_C => Sys2Proof.Machine.execLd_E_C s
  | .ld_E_D => Sys2Proof.Machine.execLd_E_D s
  | .ld_E_E => Sys2Proof.Machine.execLd_E_E s
  | .ld_E_H => Sys2Proof.Machine.execLd_E_H s
  | .ld_E_L => Sys2Proof.Machine.execLd_E_L s
  | .ld_E_A => Sys2Proof.Machine.execLd_E_A s
  | .ld_H_B => Sys2Proof.Machine.execLd_H_B s
  | .ld_H_C => Sys2Proof.Machine.execLd_H_C s
  | .ld_H_D => Sys2Proof.Machine.execLd_H_D s
  | .ld_H_E => Sys2Proof.Machine.execLd_H_E s
  | .ld_H_H => Sys2Proof.Machine.execLd_H_H s
  | .ld_H_L => Sys2Proof.Machine.execLd_H_L s
  | .ld_H_A => Sys2Proof.Machine.execLd_H_A s
  | .ld_L_B => Sys2Proof.Machine.execLd_L_B s
  | .ld_L_C => Sys2Proof.Machine.execLd_L_C s
  | .ld_L_D => Sys2Proof.Machine.execLd_L_D s
  | .ld_L_E => Sys2Proof.Machine.execLd_L_E s
  | .ld_L_H => Sys2Proof.Machine.execLd_L_H s
  | .ld_L_L => Sys2Proof.Machine.execLd_L_L s
  | .ld_L_A => Sys2Proof.Machine.execLd_L_A s
  | .ld_A_B => Sys2Proof.Machine.execLd_A_B s
  | .ld_A_C => Sys2Proof.Machine.execLd_A_C s
  | .ld_A_D => Sys2Proof.Machine.execLd_A_D s
  | .ld_A_E => Sys2Proof.Machine.execLd_A_E s
  | .ld_A_H => Sys2Proof.Machine.execLd_A_H s
  | .ld_A_L => Sys2Proof.Machine.execLd_A_L s
  | .ld_A_A => Sys2Proof.Machine.execLd_A_A s
  | .ld_B_atHL => Sys2Proof.Machine.execLd_B_atHL s
  | .ld_C_atHL => Sys2Proof.Machine.execLd_C_atHL s
  | .ld_D_atHL => Sys2Proof.Machine.execLd_D_atHL s
  | .ld_E_atHL => Sys2Proof.Machine.execLd_E_atHL s
  | .ld_H_atHL => Sys2Proof.Machine.execLd_H_atHL s
  | .ld_L_atHL => Sys2Proof.Machine.execLd_L_atHL s
  | .ld_A_atHL => Sys2Proof.Machine.execLd_A_atHL s
  | .ld_atHL_B => Sys2Proof.Machine.execLd_atHL_B s
  | .ld_atHL_C => Sys2Proof.Machine.execLd_atHL_C s
  | .ld_atHL_D => Sys2Proof.Machine.execLd_atHL_D s
  | .ld_atHL_E => Sys2Proof.Machine.execLd_atHL_E s
  | .ld_atHL_H => Sys2Proof.Machine.execLd_atHL_H s
  | .ld_atHL_L => Sys2Proof.Machine.execLd_atHL_L s
  | .ld_atHL_A => Sys2Proof.Machine.execLd_atHL_A s
  | .ld_B_n n => Sys2Proof.Machine.execLd_B_n n s
  | .ld_C_n n => Sys2Proof.Machine.execLd_C_n n s
  | .ld_D_n n => Sys2Proof.Machine.execLd_D_n n s
  | .ld_E_n n => Sys2Proof.Machine.execLd_E_n n s
  | .ld_H_n n => Sys2Proof.Machine.execLd_H_n n s
  | .ld_L_n n => Sys2Proof.Machine.execLd_L_n n s
  | .ld_A_n n => Sys2Proof.Machine.execLd_A_n n s
  | .ld_atHL_n n => Sys2Proof.Machine.execLd_atHL_n n s
  | .ld_atBC_A => Sys2Proof.Machine.execLd_atBC_A s
  | .ld_A_atBC => Sys2Proof.Machine.execLd_A_atBC s
  | .ld_atDE_A => Sys2Proof.Machine.execLd_atDE_A s
  | .ld_A_atDE => Sys2Proof.Machine.execLd_A_atDE s
  | .ld_atNN_A nn => Sys2Proof.Machine.execLd_atNN_A nn s
  | .ld_A_atNN nn => Sys2Proof.Machine.execLd_A_atNN nn s
  | .ld_BC_nn nn => Sys2Proof.Machine.execLd_BC_nn nn s
  | .ld_DE_nn nn => Sys2Proof.Machine.execLd_DE_nn nn s
  | .ld_HL_nn nn => Sys2Proof.Machine.execLd_HL_nn nn s
  | .ld_SP_nn nn => Sys2Proof.Machine.execLd_SP_nn nn s
  | .ld_atNN_HL nn => Sys2Proof.Machine.execLd_atNN_HL nn s
  | .ld_HL_atNN nn => Sys2Proof.Machine.execLd_HL_atNN nn s
  | .ld_SP_HL => Sys2Proof.Machine.execLd_SP_HL s
  | .add_A_B => Sys2Proof.Machine.execAdd_A_B s
  | .add_A_C => Sys2Proof.Machine.execAdd_A_C s
  | .add_A_D => Sys2Proof.Machine.execAdd_A_D s
  | .add_A_E => Sys2Proof.Machine.execAdd_A_E s
  | .add_A_H => Sys2Proof.Machine.execAdd_A_H s
  | .add_A_L => Sys2Proof.Machine.execAdd_A_L s
  | .add_A_atHL => Sys2Proof.Machine.execAdd_A_atHL s
  | .add_A_A => Sys2Proof.Machine.execAdd_A_A s
  | .add_A_n n => Sys2Proof.Machine.execAdd_A_n n s
  | .add_HL_BC => Sys2Proof.Machine.execAdd_HL_BC s
  | .add_HL_DE => Sys2Proof.Machine.execAdd_HL_DE s
  | .add_HL_HL => Sys2Proof.Machine.execAdd_HL_HL s
  | .add_HL_SP => Sys2Proof.Machine.execAdd_HL_SP s

end Sys2Proof.Machine
end

