-- ==== Sys2Proof/Machine/Flags.lean ====
section
/-! DEFINITION. Flags. The machine has no flag semantics: F is a plain 8-bit register that no stage writes implicitly and
no operation reads as a condition (10_state.md R27). The one place the spec reserves for flag updates is the Writeback
hook, and it performs no state mutation (40_cycle.md R89). -/

namespace Sys2Proof.Machine

/-- The reserved hook of Writeback for deferred effects such as flag updates; it mutates nothing (40_cycle.md R89). -/
def deferredEffects (s : State) : State := s

end Sys2Proof.Machine
end

