-- ==== Sys2Proof/Machine/Tick.lean ====
section
/-! DEFINITION. `tick()`, one arm per stage (spec/40_cycle.md): the machine's only step. -/

namespace Sys2Proof.Machine

/-- Fetch (40_cycle.md R79); out of bounds, the error with nothing else changed (R80). -/
def tickFetch (s : State) : Answer :=
  match fetchByte s with
  | .ok (b, s1) => .next { s1 with pending := some b, stage := .decode, lastResult := some .ok }
  | .error e => raise e s

/-- Decode takes the pending byte and copies its table entry (40_cycle.md R81). -/
def decodeHit (v : Instruction) (s : State) : State :=
  { s with pending := none, current := some v, stage := .exec, lastResult := some .ok }

/-- Decode finds no entry for `b`: the placeholder, the count and the warning (40_cycle.md R83). -/
def decodeMiss (b : Byte) (s : State) : State :=
  { s with
    pending := none
    current := some Instruction.placeholder
    decodeMisses := s.decodeMisses + 1
    stage := .exec
    lastResult := some (.okDecodeMiss b) }

/-- Decode (40_cycle.md R81, R83); with no pending byte, a violated invariant (R82, 60_exceptions.md R137). -/
def tickDecode (s : State) : Answer :=
  match s.pending with
  | none => .refused (.emptyOpcode (s.aborted .emptyOpcode))
  | some b =>
    match DecodeTable.lookup s.table b with
    | some v => .next (decodeHit v s)
    | none => .next (decodeMiss b s)

/-- Apply the operation once its trailing bytes are fetched (40_cycle.md R86): the meaning of the row of REF_TABLE it is,
or, for an entry that only another table holds, the operand-resolution rules (41_operands.md R102). -/
def applyFetched (op : Operation) (t : Trailing) (s : State) : Answer :=
  match Instr.ofFetched op t with
  | some i => exec i s
  | none => applyOperation op t s

/-- Exec (40_cycle.md R84 to R88); with no current instruction, a violated invariant (R87, 60_exceptions.md R137). -/
def tickExec (s : State) : Answer :=
  match s.current with
  | none => .refused (.emptyOpcode (s.aborted .emptyOpcode))
  | some v =>
    match fetchTrailing v.kind s with
    | .ok (t, s1) => applyFetched v.operation t s1
    | .error (e, s1) => raise e s1

/-- Writeback (40_cycle.md R89). -/
def tickWriteback (s : State) : Answer :=
  .next { deferredEffects s with stage := .fetch, lastResult := some .ok }

/-- One tick, selected by the stage (40_cycle.md R77, R78). -/
def tick (s : State) : Answer :=
  match s.stage with
  | .fetch => tickFetch s
  | .decode => tickDecode s
  | .exec => tickExec s
  | .writeback => tickWriteback s

/-- The state after an answer that is a next state; the state itself after any other. -/
def Answer.nextOr (a : Answer) (s : State) : State :=
  match a with
  | .next s' => s'
  | .fault _ => s
  | .refused _ => s

/-- Place bytes in instruction memory at PC, PC + 1, ..., addresses modulo 2^16; a byte outside the capacity is dropped. -/
def placeAtPc (s : State) (at_ : Word) : List Byte → State
  | [] => s
  | b :: rest =>
    match s.imem.set1 at_.toNat b with
    | some m => placeAtPc { s with imem := m } (at_ + 1) rest
    | none => placeAtPc s (at_ + 1) rest

/-- The state with an instruction's bytes at PC and the Fetch and Decode ticks of that instruction taken, so that the very
next tick is its Exec (log entry 1). -/
def readyToExec (s : State) (bytes : List Byte) : State :=
  let placed := placeAtPc { s with stage := .fetch } (s.read16 .pc) bytes
  let fetched := (tickFetch placed).nextOr placed
  (tickDecode fetched).nextOr fetched

end Sys2Proof.Machine
end

