-- ==== Sys2Proof/Machine/Step.lean ====
section
/-! DEFINITION. The step of the machine is one `tick()` (40_cycle.md R77: "It is the machine's only step"; log entry 1). -/

namespace Sys2Proof.Machine

/-- One step: one tick, one stage of the cycle (40_cycle.md R77). -/
def step (s : State) : Host.Outcome State Fault Refusal := tick s

/-- The state with the instruction of an opcode-table word in instruction memory at PC and its Fetch and Decode ticks
taken, so that the very next step runs it (log entry 1). -/
def State.withFetchWord (s : State) (nbits w : Nat) : State := readyToExec s (tableWordBytes nbits w)

end Sys2Proof.Machine
end

