-- ==== Sys2Proof/Machine/HostInterface.lean ====
section
/-! DEFINITION. What the host may do to the machine besides ticking it: place bytes before the first tick, read memory,
take a snapshot, and drive the reference run loop (20_memory.md R38 to R43, R57; 10_state.md R37; 40_cycle.md R91). -/

namespace Sys2Proof.Machine

/-- Why a call of the host interface fails. -/
inductive HostError where
  /-- The access leaves the memory's capacity (20_memory.md R43, 60_exceptions.md R134). -/
  | outOfBounds (mem : MemId) (addr width : Nat)
  /-- A host write after the first tick: outside the model (20_memory.md R57; log entry 18). -/
  | writeDuringRun
deriving DecidableEq, Repr

/-- A memory result as a host result, with OutOfBounds recorded for a failure. -/
def hostResult {α : Type} (M : MemId) (addr width : Nat) : Option α → Except HostError α
  | some v => .ok v
  | none => .error (.outOfBounds M addr width)

/-- Host `get(addr, 1)` (20_memory.md R39, R57). -/
def State.hostGet1 (s : State) (M : MemId) (addr : Nat) : Except HostError Byte :=
  hostResult M addr 1 ((s.mem M).get1 addr)

/-- Host `get(addr, 2)` (20_memory.md R40, R57). -/
def State.hostGet2 (s : State) (M : MemId) (addr : Nat) : Except HostError Word :=
  hostResult M addr 2 ((s.mem M).get2 addr)

/-- Host `load(addr, count)` (20_memory.md R42, R57). -/
def State.hostLoad (s : State) (M : MemId) (addr count : Nat) : Except HostError (List Byte) :=
  hostResult M addr count ((s.mem M).load addr count)

/-- A host write: allowed only before the first tick (20_memory.md R57). -/
def State.hostWrite (s : State) (M : MemId) (addr width : Nat) (m : Option Memory) : Except HostError State :=
  match s.lastResult with
  | some _ => .error .writeDuringRun
  | none => (hostResult M addr width m).map (s.setMem M)

/-- Host `set(addr, 1, v)` (20_memory.md R41, R57). -/
def State.hostSet1 (s : State) (M : MemId) (addr : Nat) (v : Byte) : Except HostError State :=
  s.hostWrite M addr 1 ((s.mem M).set1 addr v)

/-- Host `set(addr, 2, v)` (20_memory.md R41, R57). -/
def State.hostSet2 (s : State) (M : MemId) (addr : Nat) (v : Word) : Except HostError State :=
  s.hostWrite M addr 2 ((s.mem M).set2 addr v)

/-- Host `store(addr, bytes)`: how a program comes into instruction memory (20_memory.md R42, R57). -/
def State.hostStore (s : State) (M : MemId) (addr : Nat) (bytes : List Byte) : Except HostError State :=
  s.hostWrite M addr bytes.length ((s.mem M).store addr bytes)

/-- The read-only snapshot: every register, every pair view, and a bounded window of one memory (10_state.md R37). -/
structure Snapshot where
  regs : Regs
  bc : Word
  de : Word
  hl : Word
  af : Word
  window : List Byte
deriving DecidableEq, Repr

/-- Take a snapshot with a window of `count` bytes of `M` at `addr` (10_state.md R37). It reads and changes nothing. -/
def State.snapshot (s : State) (M : MemId) (addr count : Nat) : Except HostError Snapshot :=
  (s.hostLoad M addr count).map fun window =>
    { regs := s.regs, bc := s.read16 .bc, de := s.read16 .de, hl := s.read16 .hl, af := s.read16 .af, window }

/-- How the reference run loop ends (40_cycle.md R91). -/
inductive LoopEnd where
  | terminated (s : State)
  | outOfFuel (s : State)
  | error (e : EngineError) (s : State)
  | refused (r : Refusal)
deriving DecidableEq, Repr

/-- The reference run loop (40_cycle.md R91): the predicate is evaluated only at stage Fetch, and the loop stops at the
first error. A tick refused for a violated invariant is its error EmptyOpcode; no tick is refused for another reason. -/
def runLoop (terminate : State → Bool) : Nat → State → LoopEnd
  | 0, s => if s.stage == .fetch && terminate s then .terminated s else .outOfFuel s
  | fuel + 1, s =>
    if s.stage == .fetch && terminate s then .terminated s
    else
      match step s with
      | .next s' =>
        match s'.lastResult with
        | some (.err e) => .error e s'
        | _ => runLoop terminate fuel s'
      | .refused (.emptyOpcode s') => .error .emptyOpcode s'
      | .refused r => .refused r
      | .fault f => nomatch f

end Sys2Proof.Machine
end

