-- ==== Sys2Proof/Safety.lean ====
section
/-! DEFINITION. What counts as a safe run. A claim's observation treats every `Err` result of a tick as a fault that
refutes the claim, unless the claim allows it (92_eei_decisions.md D34), although the machine itself goes on. Here too are
the states the machine reaches from construction, and the invariant they meet. -/

namespace Sys2Proof.Machine

/-- The last tick returned an error: what a claim treats as a fault (92_eei_decisions.md D34, 93_implementation_defined.md
U1, U2, U4). -/
def State.errored (s : State) : Bool :=
  match s.lastResult with
  | some (.err _) => true
  | some .ok => false
  | some (.okDecodeMiss _) => false
  | none => false

/-- `n` ticks, stopping at the first that answers no next state: `Host.Core.run` of the machine (Laws/Run.lean). -/
def ticks : Nat → State → Answer
  | 0, s => .next s
  | n + 1, s =>
    match step s with
    | .next t => ticks n t
    | .fault r => .fault r
    | .refused r => .refused r

/-- The next `n` ticks all answer a next state and none of them returns an error. A decode miss is no error (U14). -/
def SafeFor : Nat → State → Prop
  | 0, _ => True
  | n + 1, s => ∃ t, step s = .next t ∧ t.errored = false ∧ SafeFor n t

/-- What a caller may construct (00_scope.md R5, 70_reset_and_hazards.md R153): memories in canonical form, each of
capacity at least 1. -/
structure Params.Legal (P : Params) : Prop where
  imem : P.imem.wf
  dmem : P.dmem.wf

/-- The memory holds these bytes from an engine address on, addresses modulo 2^16 (10_state.md R26), each within its
capacity: what "the bytes at the program counter" means. -/
def Memory.Holds (m : Memory) : Word → List Byte → Prop
  | _, [] => True
  | addr, b :: rest => m.get1 addr.toNat = some b ∧ m.Holds (addr + 1) rest

/-- The states reached by ticks from a construction. The images of a construction are whatever the host placed before the
first tick and any value elsewhere (70_reset_and_hazards.md R152), so a host `store` needs no case of its own. -/
inductive Reachable : State → Prop where
  | construct {P : Params} : P.Legal → Reachable (State.construct P)
  | tick {s t : State} : Reachable s → step s = .next t → Reachable t

/-- The invariant of the machine: canonical memories; a pending byte exactly at stage Decode (10_state.md R31, 40_cycle.md
R82); a current instruction at Exec and Writeback (40_cycle.md R87); and a current instruction is the placeholder or an
entry of the table (40_cycle.md R81, R83). -/
structure State.Inv (s : State) : Prop where
  imem : s.imem.wf
  dmem : s.dmem.wf
  pending : s.pending.isSome = true ↔ s.stage = .decode
  current : s.stage = .exec ∨ s.stage = .writeback → s.current.isSome = true
  fromTable : ∀ v, s.current = some v → v = Instruction.placeholder ∨ ∃ b, DecodeTable.lookup s.table b = some v

end Sys2Proof.Machine
end

