-- ==== Sys2Proof/Certificates/Slice0/Obligations.lean ====
section
/-! DEFINITION. The statements for the provers. The rows a statement speaks of are listed by constructor; `Unchanged`,
`Rest`, `SameBytes` and `SameWords` say frames through the model's reads. No statement rests on a value that
`State.reset` names for an open parameter of the spec, but for `ResetIsAConstruction`, which says so. -/

namespace Sys2Proof.Claims

open Sys2Proof.Machine

/-! ### Frames -/

/-- Everything but the registers, data memory, the stage and the tick's answer is as before. -/
structure Rest (s t : State) : Prop where
  imem : t.imem = s.imem
  pending : t.pending = s.pending
  current : t.current = s.current
  decodeMisses : t.decodeMisses = s.decodeMisses
  table : t.table = s.table

/-- Data memory has its capacity, and every byte of it reads as before. -/
def SameBytes (s t : State) : Prop :=
  t.dmem.cap = s.dmem.cap ∧ ∀ addr, t.dmem.byteAt addr = s.dmem.byteAt addr

/-- Data memory has its capacity, `addr` reads `v`, and every other byte reads as before. -/
def OneByteStored (addr : Nat) (v : Byte) (s t : State) : Prop :=
  t.dmem.cap = s.dmem.cap ∧ t.dmem.byteAt addr = v ∧ ∀ other, other ≠ addr → t.dmem.byteAt other = s.dmem.byteAt other

/-- The four true 16-bit registers hold what they held. -/
structure SameWords (g g' : Regs) : Prop where
  pc : g'.pc = g.pc
  sp : g'.sp = g.sp
  ix : g'.ix = g.ix
  iy : g'.iy = g.iy

/-- The 8-bit register `dst` holds `v`, and every other register, of 8 or 16 bits, holds what it held. -/
def OneByteWritten (dst : Reg8) (v : Byte) (g g' : Regs) : Prop :=
  g'.read8 dst = v ∧ (∀ reg, reg ≠ dst → g'.read8 reg = g.read8 reg) ∧ SameWords g g'

/-- Nothing is changed but the stage and the tick's answer. -/
structure Unchanged (s t : State) : Prop where
  regs : t.regs = s.regs
  bytes : SameBytes s t
  rest : Rest s t

/-- The Exec tick ended with no error: stage Writeback, answer Ok. -/
def Completed (t : State) : Prop := t.stage = .writeback ∧ t.lastResult = some .ok

/-- The tick returned this error: stage Fetch. -/
def Aborted (e : EngineError) (t : State) : Prop := t.stage = .fetch ∧ t.lastResult = some (.err e)

/-- The state with PC moved on by `n`, modulo 2^16. -/
def pcPlus (n : Nat) (s : State) : State := { s with regs := { s.regs with pc := s.regs.pc + BitVec.ofNat 16 n } }

/-- Everything but the memory `M` is as before. -/
structure OnlyMemory (M : MemId) (s t : State) : Prop where
  others : ∀ N, N ≠ M → t.mem N = s.mem N
  regs : t.regs = s.regs
  stage : t.stage = s.stage
  pending : t.pending = s.pending
  current : t.current = s.current
  decodeMisses : t.decodeMisses = s.decodeMisses
  table : t.table = s.table
  lastResult : t.lastResult = s.lastResult

/-- At the state `s` after the opcode's fetch, with trailing bytes `bytes`, `Mem(a)` under kind `k` addresses `ea`:
displaced-indexed through IX or IY, register-indirect through any other base, or absolute (41_operands.md R98 to R100). -/
def Addresses (s : State) (k : Kind) (a : Operand) (bytes : List Byte) (ea : Word) : Prop :=
  (∃ x d, (x = .ix ∨ x = .iy) ∧ k = .displacement ∧ a = .r16 x ∧ bytes = [d] ∧
    ea = s.regs.read16 x + d.signExtend 16) ∨
  (∃ p, p ≠ .ix ∧ p ≠ .iy ∧ k = .noOperand ∧ a = .r16 p ∧ bytes = [] ∧ ea = s.regs.read16 p) ∨
  (∃ first second, k = .nn ∧ a = .imm16 ∧ bytes = [first, second] ∧ ea = imm16 first second)

/-! ### The rows of the opcode table, by shape -/

/-- LD r,r' (43_load8.md R108): the row, its destination, its source. -/
def regRegRows : List (Instr × Reg8 × Reg8) :=
  [(.ld_B_B, .b, .b), (.ld_B_C, .b, .c), (.ld_B_D, .b, .d), (.ld_B_E, .b, .e),
   (.ld_B_H, .b, .h), (.ld_B_L, .b, .l), (.ld_B_A, .b, .a), (.ld_C_B, .c, .b),
   (.ld_C_C, .c, .c), (.ld_C_D, .c, .d), (.ld_C_E, .c, .e), (.ld_C_H, .c, .h),
   (.ld_C_L, .c, .l), (.ld_C_A, .c, .a), (.ld_D_B, .d, .b), (.ld_D_C, .d, .c),
   (.ld_D_D, .d, .d), (.ld_D_E, .d, .e), (.ld_D_H, .d, .h), (.ld_D_L, .d, .l),
   (.ld_D_A, .d, .a), (.ld_E_B, .e, .b), (.ld_E_C, .e, .c), (.ld_E_D, .e, .d),
   (.ld_E_E, .e, .e), (.ld_E_H, .e, .h), (.ld_E_L, .e, .l), (.ld_E_A, .e, .a),
   (.ld_H_B, .h, .b), (.ld_H_C, .h, .c), (.ld_H_D, .h, .d), (.ld_H_E, .h, .e),
   (.ld_H_H, .h, .h), (.ld_H_L, .h, .l), (.ld_H_A, .h, .a), (.ld_L_B, .l, .b),
   (.ld_L_C, .l, .c), (.ld_L_D, .l, .d), (.ld_L_E, .l, .e), (.ld_L_H, .l, .h),
   (.ld_L_L, .l, .l), (.ld_L_A, .l, .a), (.ld_A_B, .a, .b), (.ld_A_C, .a, .c),
   (.ld_A_D, .a, .d), (.ld_A_E, .a, .e), (.ld_A_H, .a, .h), (.ld_A_L, .a, .l),
   (.ld_A_A, .a, .a)]

/-- LD r,(HL), LD A,(BC), LD A,(DE) (43_load8.md R109, R115, R116): the row, its destination, its address base. -/
def regAtRows : List (Instr × Reg8 × Reg16) :=
  [(.ld_B_atHL, .b, .hl), (.ld_C_atHL, .c, .hl), (.ld_D_atHL, .d, .hl), (.ld_E_atHL, .e, .hl),
   (.ld_H_atHL, .h, .hl), (.ld_L_atHL, .l, .hl), (.ld_A_atHL, .a, .hl), (.ld_A_atBC, .a, .bc),
   (.ld_A_atDE, .a, .de)]

/-- LD (HL),r, LD (BC),A, LD (DE),A (43_load8.md R110, R113, R114): the row, its address base, its source. -/
def atRegRows : List (Instr × Reg16 × Reg8) :=
  [(.ld_atHL_B, .hl, .b), (.ld_atHL_C, .hl, .c), (.ld_atHL_D, .hl, .d), (.ld_atHL_E, .hl, .e),
   (.ld_atHL_H, .hl, .h), (.ld_atHL_L, .hl, .l), (.ld_atHL_A, .hl, .a), (.ld_atBC_A, .bc, .a),
   (.ld_atDE_A, .de, .a)]

/-- LD r,n (43_load8.md R111) with its byte: the row and its destination. -/
def regImmRows (n : Byte) : List (Instr × Reg8) :=
  [(.ld_B_n n, .b), (.ld_C_n n, .c), (.ld_D_n n, .d), (.ld_E_n n, .e),
   (.ld_H_n n, .h), (.ld_L_n n, .l), (.ld_A_n n, .a)]

/-- LD rp,nn for the three pairs (44_load16.md R123) with its value: the row, the `high` and the `low` constituent. -/
def pairImmRows (nn : Word) : List (Instr × Reg8 × Reg8) :=
  [(.ld_BC_nn nn, .b, .c), (.ld_DE_nn nn, .d, .e), (.ld_HL_nn nn, .h, .l)]

/-- The rows with no defined semantics: LD (HL),n, LD (nn),HL, LD HL,(nn), LD SP,HL (43_load8.md R112, 44_load16.md R124 to
R126) and every ADD (45_add.md R128 to R131), with any trailing byte or value. -/
def unsupportedRows (n : Byte) (nn : Word) : List Instr :=
  [.add_HL_BC, .add_HL_DE, .ld_atNN_HL nn, .add_HL_HL, .ld_HL_atNN nn, .ld_atHL_n n,
   .add_HL_SP, .add_A_B, .add_A_C, .add_A_D, .add_A_E, .add_A_H,
   .add_A_L, .add_A_atHL, .add_A_A, .add_A_n n, .ld_SP_HL]

end Sys2Proof.Claims

open Sys2Proof Sys2Proof.Machine Sys2Proof.Claims

/-! ### Registers -/

/-- A pair reads as its high constituent in bits 7:0 and its low constituent in bits 15:8. Formalises R19. The choices
it rests on that are not the source's own words: log entry 10. -/
def Obligations.PairReadPutsHighInTheLowByte : Prop :=
  ∀ (g : Regs) (p : Reg16) (high low : Reg8), pairHalves p = some (high, low) →
    g.read16 p = (g.read8 high).setWidth 16 ||| ((g.read8 low).setWidth 16 <<< 8)

/-- A pair write puts bits 7:0 in high and bits 15:8 in low and changes no other register. Formalises R20. The choices
it rests on that are not the source's own words: log entry 10. -/
def Obligations.PairWriteSplitsTheValue : Prop :=
  ∀ (g : Regs) (p : Reg16) (high low : Reg8) (v : Word), pairHalves p = some (high, low) →
    (g.write16 p v).read8 high = v.setWidth 8 ∧
    (g.write16 p v).read8 low = (v >>> 8).setWidth 8 ∧
    (∀ reg, reg ≠ high → reg ≠ low → (g.write16 p v).read8 reg = g.read8 reg) ∧
    SameWords g (g.write16 p v)

/-- Writing a constituent shows in its pair at once, and a pair reads back what was written to it. Formalises
10_state.md section 1 (pair views, R21, marked derived there). The choices it rests on that are not the source's own
words: log entry 10. -/
def Obligations.PairViewsAreBidirectional : Prop :=
  ∀ (g : Regs) (p : Reg16) (high low : Reg8), pairHalves p = some (high, low) →
    (∀ v, (g.write16 p v).read16 p = v) ∧
    (∀ h l, ((g.write8 high h).write8 low l).read16 p = h.setWidth 16 ||| (l.setWidth 16 <<< 8)) ∧
    (∀ h, (g.write8 high h).read16 p = h.setWidth 16 ||| ((g.read8 low).setWidth 16 <<< 8)) ∧
    (∀ l, (g.write8 low l).read16 p = (g.read8 high).setWidth 16 ||| (l.setWidth 16 <<< 8))

/-- PC, SP, IX and IY read what is stored, store what is written, and share storage with nothing. Formalises R22. -/
def Obligations.TrueRegistersAreIndependentStorage : Prop :=
  ∀ g : Regs,
    (g.read16 .pc = g.pc ∧ g.read16 .sp = g.sp ∧ g.read16 .ix = g.ix ∧ g.read16 .iy = g.iy) ∧
    (∀ (p : Reg16) (v : Word), pairHalves p = none →
      (g.write16 p v).read16 p = v ∧
      (∀ q, pairHalves q = none → q ≠ p → (g.write16 p v).read16 q = g.read16 q) ∧
      (∀ reg, (g.write16 p v).read8 reg = g.read8 reg)) ∧
    (∀ (reg : Reg8) (v : Byte), OneByteWritten reg v g (g.write8 reg v))

/-- advance(n) adds n to PC modulo 2^16 and changes no other register. Formalises 10_state.md section 2 (R26, its
decision D3; log entry 11). The choices it rests on that are not the source's own words: log entry 11. -/
def Obligations.PcAdvanceWraps : Prop :=
  ∀ (g : Regs) (n : Nat),
    (g.advance n).pc.toNat = (g.pc.toNat + n) % 65536 ∧
    (∀ reg, (g.advance n).read8 reg = g.read8 reg) ∧
    (g.advance n).sp = g.sp ∧ (g.advance n).ix = g.ix ∧ (g.advance n).iy = g.iy

/-! ### Memory and the host interface -/

/-- set stores one byte, or two bytes big-endian, changes no other byte, and get reads it back. Formalises R41. -/
def Obligations.MemoryRoundTrip : Prop :=
  ∀ (m : Memory) (addr : Nat), m.wf →
    (∀ v : Byte, addr < m.cap → ∃ m', m.set1 addr v = some m' ∧ m'.cap = m.cap ∧ m'.get1 addr = some v ∧
      m'.byteAt addr = v ∧ ∀ other, other ≠ addr → m'.byteAt other = m.byteAt other) ∧
    (∀ v : Word, addr + 1 < m.cap → ∃ m', m.set2 addr v = some m' ∧ m'.cap = m.cap ∧ m'.get2 addr = some v ∧
      m'.byteAt addr = (v >>> 8).setWidth 8 ∧ m'.byteAt (addr + 1) = v.setWidth 8 ∧
      ∀ other, other ≠ addr → other ≠ addr + 1 → m'.byteAt other = m.byteAt other)

/-- An access that leaves the capacity fails with OutOfBounds and changes nothing; one within it succeeds. Formalises
20_memory.md sections 1 and 3 (R42, R43, R57; decisions D15, D26; log entries 17, 18), 60_exceptions.md section 1
(R134, its decision D25; log entry 25). The choices it rests on that are not the source's own words: log entries 17,
18, 25. -/
def Obligations.AccessOutsideCapacityFails : Prop :=
  ∀ (s : State) (M : MemId) (addr : Nat),
    ((s.mem M).cap < addr + 1 →
      s.hostGet1 M addr = .error (.outOfBounds M addr 1) ∧
      s.memRead M addr = .error (.outOfBounds M addr 1) ∧
      ∀ v, s.memWrite M addr v = .error (.outOfBounds M addr 1) ∧
        (s.lastResult = none → s.hostSet1 M addr v = .error (.outOfBounds M addr 1))) ∧
    ((s.mem M).cap < addr + 2 →
      s.hostGet2 M addr = .error (.outOfBounds M addr 2) ∧
      ∀ v, s.lastResult = none → s.hostSet2 M addr v = .error (.outOfBounds M addr 2)) ∧
    (∀ count, (s.mem M).cap < addr + count →
      s.hostLoad M addr count = .error (.outOfBounds M addr count) ∧
      ∀ bytes : List Byte, bytes.length = count → s.lastResult = none →
        s.hostStore M addr bytes = .error (.outOfBounds M addr count)) ∧
    (addr + 1 ≤ (s.mem M).cap →
      (∃ v, s.hostGet1 M addr = .ok v) ∧ ∀ v, s.lastResult = none → ∃ t, s.hostSet1 M addr v = .ok t) ∧
    (addr + 2 ≤ (s.mem M).cap →
      (∃ v, s.hostGet2 M addr = .ok v) ∧ ∀ v, s.lastResult = none → ∃ t, s.hostSet2 M addr v = .ok t) ∧
    (∀ count, addr + count ≤ (s.mem M).cap →
      (∃ bytes, s.hostLoad M addr count = .ok bytes) ∧
      ∀ bytes : List Byte, bytes.length = count → s.lastResult = none → ∃ t, s.hostStore M addr bytes = .ok t)

/-- store places each byte at its address and no other, and load reads them back in order. Formalises 20_memory.md
section 1 (R42, its decision D26). The choices it rests on that are not the source's own words: log entry 25. -/
def Obligations.BulkStoreThenLoad : Prop :=
  ∀ (m : Memory) (addr : Nat) (bytes : List Byte), m.wf → addr + bytes.length ≤ m.cap →
    ∃ m', m.store addr bytes = some m' ∧ m'.cap = m.cap ∧ m'.load addr bytes.length = some bytes ∧
      (∀ k (h : k < bytes.length), m'.byteAt (addr + k) = bytes[k]) ∧
      ∀ other, other < addr ∨ addr + bytes.length ≤ other → m'.byteAt other = m.byteAt other

/-- After a tick every host write is refused. Formalises 20_memory.md section 3 (R57, its decision D15; log entry 18).
The choices it rests on that are not the source's own words: log entry 18. -/
def Obligations.HostWritesOnlyBeforeTheFirstTick : Prop :=
  ∀ (s t : State) (M : MemId) (addr : Nat), step s = .next t →
    (∀ v, t.hostSet1 M addr v = .error .writeDuringRun) ∧
    (∀ v, t.hostSet2 M addr v = .error .writeDuringRun) ∧
    (∀ bytes, t.hostStore M addr bytes = .error .writeDuringRun)

/-- A snapshot holds every register, every pair view, and the bytes of the window asked for. Formalises 10_state.md
section 6 (R37, its decision D29). The choices it rests on that are not the source's own words: log entries 10, 28. -/
def Obligations.SnapshotShowsRegistersPairsAndWindow : Prop :=
  ∀ (s : State) (M : MemId) (addr count : Nat), addr + count ≤ (s.mem M).cap →
    ∃ snap, s.snapshot M addr count = .ok snap ∧ snap.regs = s.regs ∧
      snap.bc = s.read16 .bc ∧ snap.de = s.read16 .de ∧ snap.hl = s.read16 .hl ∧ snap.af = s.read16 .af ∧
      snap.window.length = count ∧ ∀ k (h : k < snap.window.length), snap.window[k] = (s.mem M).byteAt (addr + k)

/-! ### Encoding -/

/-- x, y and z are bits 7:6, 5:3 and 2:0 of the opcode byte. Formalises R60. -/
def Obligations.OpcodeFieldsAreTheBitFields : Prop :=
  (∀ b : Byte, (fieldX b).toNat = (b.toNat >>> 6) &&& 3 ∧ (fieldY b).toNat = (b.toNat >>> 3) &&& 7 ∧
    (fieldZ b).toNat = b.toNat &&& 7) ∧
  fieldX 0b00000001 = 0 ∧ fieldY 0b00000001 = 0 ∧ fieldZ 0b00000001 = 1

/-- A 16-bit immediate is bytes[1] << 8 | bytes[0], as a value and as an address. Formalises R66. The choices it rests
on that are not the source's own words: log entry 19. -/
def Obligations.ImmediatesAssembleLowByteFirst : Prop :=
  (∀ first second : Byte, (imm16 first second).toNat = second.toNat * 256 + first.toNat) ∧
  (∀ (s : State) (first second : Byte) (p : Sel16),
    loadForm s (.nn first second) (.reg16 p) .imm16 = some (.reg16Imm p (imm16 first second)) ∧
    effectiveAddress s (.nn first second) .imm16 = some (imm16 first second)) ∧
  imm16 0x07 0xc5 = 0xc507

/-- The displacement byte is read as a two's-complement value in -128..127. Formalises R65. -/
def Obligations.DisplacementIsSigned : Prop :=
  ∀ d : Byte, (displacement d).toInt = d.toInt ∧ -128 ≤ (displacement d).toInt ∧ (displacement d).toInt ≤ 127

/-- REF_TABLE has at each row's opcode the row's Instruction value, and no other entry. Formalises 30_encoding.md
section 4 (R69, the spec's own choice D1; log entry 9), opcode_table.json. The choices it rests on that are not the
source's own words: log entry 9. -/
def Obligations.RefTableHoldsExactlyTheRows : Prop :=
  (∀ i : Instr, DecodeTable.lookup refTable i.opcode = some i.template) ∧
  ∀ (b : Byte) (v : Instruction), DecodeTable.lookup refTable b = some v → ∃ i : Instr, i.opcode = b ∧ i.template = v

/-- REF_TABLE has 98 entries and 158 misses. Formalises 30_encoding.md section 4 and 5 (R69, R71; D1). The choices it
rests on that are not the source's own words: log entry 9. -/
def Obligations.RefTableCounts : Prop :=
  ((List.range 256).filter fun n => (DecodeTable.lookup refTable (BitVec.ofNat 8 n)).isSome).length = 98 ∧
  ((List.range 256).filter fun n => (DecodeTable.lookup refTable (BitVec.ofNat 8 n)).isNone).length = 158 ∧
  DecodeTable.lookup refTable 0x76 = none ∧ DecodeTable.lookup refTable 0xCB = none ∧
  DecodeTable.lookup refTable 0xDD = none ∧ DecodeTable.lookup refTable 0xED = none ∧
  DecodeTable.lookup refTable 0xFD = none

/-- Decoding an encoded instruction gives it back, with every operand at every value. Formalises 30_encoding.md
sections 1, 2, 4 and 6 (R58, R59, R66, R69, R76). The choices it rests on that are not the source's own words: log
entry 9. -/
def Obligations.DecodeOfEncode : Prop :=
  ∀ (i : Instr) (rest : List Byte), decode (encode i ++ rest) = .row i rest

/-- Whatever the decoder reads an instruction from is that instruction's encoding. Formalises 30_encoding.md sections
1, 2, 4 and 6 (R58, R59, R66, R69, R76). The choices it rests on that are not the source's own words: log entry 9. -/
def Obligations.EncodeOfDecode : Prop :=
  (∀ (bytes rest : List Byte) (i : Instr), decode bytes = .row i rest → bytes = encode i ++ rest) ∧
  ∀ (b : Byte) (rest : List Byte), decode (b :: rest) = .miss b rest ↔ DecodeTable.lookup refTable b = none

/-- Some words written out from the encoding tables decode to the instructions they stand for. Formalises
30_encoding.md section 4 (R69), 95_test_vectors.md section 2.3. The choices it rests on that are not the source's own
words: log entry 9. -/
def Obligations.WrittenWordsDecode : Prop :=
  decode [0x00] = .row .nop [] ∧ decode [0x01, 0xc5, 0x07] = .row (.ld_BC_nn 0x07c5) [] ∧
  decode [0x48] = .row .ld_C_B [] ∧ decode [0x7E] = .row .ld_A_atHL [] ∧ decode [0x77] = .row .ld_atHL_A [] ∧
  decode [0x3E, 0x42] = .row (.ld_A_n 0x42) [] ∧ decode [0x32, 0x34, 0x12] = .row (.ld_atNN_A 0x1234) [] ∧
  decode [0x29] = .row .add_HL_HL [] ∧ decode [0xC6, 0x05] = .row (.add_A_n 0x05) [] ∧
  decode [0xF9] = .row .ld_SP_HL [] ∧ decode [0x76] = .miss 0x76 []

/-! ### Ticks -/

/-- A Fetch tick within instruction memory reads the byte at PC, advances PC, keeps the byte, and changes nothing else.
Formalises R79. The choices it rests on that are not the source's own words: log entry 2. -/
def Obligations.FetchTick : Prop :=
  ∀ s : State, s.stage = .fetch → s.regs.pc.toNat < s.imem.cap →
    step s = .next { s with
      regs := { s.regs with pc := s.regs.pc + 1 }
      pending := some (s.imem.byteAt s.regs.pc.toNat)
      stage := .decode
      lastResult := some .ok }

/-- A Fetch outside instruction memory returns OutOfBounds, changes nothing, and repeats. Formalises 40_cycle.md
section 2 (R80, its decision D6; log entry 13). The choices it rests on that are not the source's own words: log
entries 2, 13. -/
def Obligations.FetchOutOfBoundsRepeats : Prop :=
  ∀ s t : State, s.stage = .fetch → s.imem.cap ≤ s.regs.pc.toNat →
    t = { s with lastResult := some (.err (.outOfBounds .imem s.regs.pc.toNat 1)) } → step s = .next t ∧ step t = .next t

/-- A Decode tick copies the table's entry, or on a miss takes the placeholder, counts, and warns; it never errs.
Formalises 40_cycle.md section 3 (R81, R83; decisions D7, D9; log entries 20, 21), 30_encoding.md section 5 (R70, R71).
The choices it rests on that are not the source's own words: log entries 2, 20, 21. -/
def Obligations.DecodeTick : Prop :=
  ∀ (s : State) (b : Byte), s.stage = .decode → s.pending = some b →
    (∀ v, DecodeTable.lookup s.table b = some v →
      step s = .next { s with pending := none, current := some v, stage := .exec, lastResult := some .ok }) ∧
    (DecodeTable.lookup s.table b = none →
      step s = .next { s with
        pending := none
        current := some ⟨.noOperand, .nop⟩
        decodeMisses := s.decodeMisses + 1
        stage := .exec
        lastResult := some (.okDecodeMiss b) })

/-- Decode with nothing pending and Exec with nothing current are refused as EmptyOpcode. Formalises 40_cycle.md
sections 3 and 4 (R82, R87; decisions D7, D8; log entry 3), 60_exceptions.md section 1 (R137). The choices it rests on
that are not the source's own words: log entry 3. -/
def Obligations.EmptyOpcodeIsRefused : Prop :=
  ∀ s t : State, (s.stage = .decode ∧ s.pending = none) ∨ (s.stage = .exec ∧ s.current = none) →
    t = { s with stage := .fetch, lastResult := some (.err .emptyOpcode) } → step s = .refused (.emptyOpcode t)

/-- A trailing fetch that leaves instruction memory aborts the instruction, whatever it is, with PC past the bytes
fetched. Formalises 40_cycle.md section 4 (R84, R85, R88; decisions D3, D5; log entries 11, 13), 60_exceptions.md
section 2 (R140, D10). The choices it rests on that are not the source's own words: log entries 2, 11, 13, 16. -/
def Obligations.TrailingFetchOutOfBounds : Prop :=
  ∀ (s : State) (v : Instruction) (bytes : List Byte), s.stage = .exec → s.current = some v →
    s.imem.Holds s.regs.pc bytes → bytes.length < v.kind.trailing →
    s.imem.cap ≤ (s.regs.pc + BitVec.ofNat 16 bytes.length).toNat →
    step s = .next { pcPlus bytes.length s with
      stage := .fetch
      lastResult := some (.err (.outOfBounds .imem (s.regs.pc + BitVec.ofNat 16 bytes.length).toNat 1)) }

/-- An Exec step of a row fetches its trailing bytes, moves PC past them, and is exec of that instruction. Formalises
40_cycle.md section 4 (R84, R86). The choices it rests on that are not the source's own words: log entries 11, 22, 23.
-/
def Obligations.StepRunsTheDecodedInstruction : Prop :=
  ∀ (s : State) (i : Instr), s.stage = .exec → s.current = some i.template → s.imem.Holds s.regs.pc i.trailing.bytes →
    step s = exec i (pcPlus i.trailing.bytes.length s)

/-- From stage Fetch, when the bytes at PC decode to i, three steps are exec of i after moving PC past it. Formalises
40_cycle.md sections 2 to 4 (R79, R81, R84, R86), 30_encoding.md section 1 (R58). The choices it rests on that are not
the source's own words: log entries 1, 9, 11, 21, 23. -/
def Obligations.ThreeStepsRunTheInstructionAtPc : Prop :=
  ∀ (s : State) (i : Instr) (bytes : List Byte), s.stage = .fetch → s.table = refTable →
    s.imem.Holds s.regs.pc bytes → decode bytes = .row i [] →
    ticks 3 s = exec i { pcPlus bytes.length s with
      pending := none
      current := some i.template
      stage := .exec
      lastResult := some .ok }

/-- An opcode with no entry takes four steps, moves PC by one, counts a miss, and changes nothing else. Formalises
42_nop.md (R106), 30_encoding.md section 5 (R70), 40_cycle.md section 3 (R83, D9). The choices it rests on that are not
the source's own words: log entries 1, 2, 20, 21. -/
def Obligations.MissedOpcodeRunsAsNoOp : Prop :=
  ∀ (s : State) (b : Byte), s.stage = .fetch → s.imem.get1 s.regs.pc.toNat = some b →
    DecodeTable.lookup s.table b = none →
    ticks 4 s = .next { pcPlus 1 s with
      pending := none
      current := some ⟨.noOperand, .nop⟩
      decodeMisses := s.decodeMisses + 1
      stage := .fetch
      lastResult := some .ok } ∧
    ∃ t : State, ticks 2 s = .next t ∧ t.lastResult = some (.okDecodeMiss b)

/-- A Nop of any kind takes four steps, moves PC past its trailing bytes, and changes nothing else. Formalises
42_nop.md (R105, R107; D20), 40_cycle.md section 6 (R90). The choices it rests on that are not the source's own words:
log entries 1, 11, 21, 23. -/
def Obligations.NopWithTrailingBytes : Prop :=
  ∀ (s : State) (k : Kind) (b : Byte) (rest : List Byte), s.stage = .fetch →
    s.imem.Holds s.regs.pc (b :: rest) → rest.length = k.trailing →
    DecodeTable.lookup s.table b = some ⟨k, .nop⟩ →
    ticks 4 s = .next { pcPlus (1 + k.trailing) s with
      pending := none
      current := some ⟨k, .nop⟩
      stage := .fetch
      lastResult := some .ok }

/-- A Writeback tick only moves the stage to Fetch and answers Ok. Formalises 40_cycle.md section 5 (R89, its decision
D31; log entry 21). The choices it rests on that are not the source's own words: log entries 2, 21. -/
def Obligations.WritebackTick : Prop :=
  ∀ s : State, s.stage = .writeback → step s = .next { s with stage := .fetch, lastResult := some .ok }

/-- A step that returns no error moves the stage one place along the cycle, and one that returns an error lands on
Fetch. Formalises 40_cycle.md section 1 (R77, R78; decisions D5 to D7; log entry 13). The choices it rests on that are
not the source's own words: log entries 2, 13. -/
def Obligations.StagesFollowTheCycle : Prop :=
  ∀ s t : State, step s = .next t →
    t.lastResult.isSome = true ∧
    (t.errored = true → t.stage = .fetch) ∧
    (t.errored = false →
      (s.stage = .fetch → t.stage = .decode) ∧ (s.stage = .decode → t.stage = .exec) ∧
      (s.stage = .exec → t.stage = .writeback) ∧ (s.stage = .writeback → t.stage = .fetch))

/-- A row that raises no error retires in four steps with PC past it, and one that does is over after three. Formalises
40_cycle.md section 6 (R90), 70_reset_and_hazards.md section 4 (R158). The choices it rests on that are not the
source's own words: log entries 1, 2, 9, 11, 13. -/
def Obligations.InstructionRetiresInFourSteps : Prop :=
  ∀ (s : State) (i : Instr) (bytes : List Byte), s.stage = .fetch → s.table = refTable →
    s.imem.Holds s.regs.pc bytes → decode bytes = .row i [] →
    ∃ t : State, ticks 3 s = .next t ∧ t.regs.pc = s.regs.pc + BitVec.ofNat 16 bytes.length ∧
      ((t.errored = true ∧ t.stage = .fetch) ∨
        (t.lastResult = some .ok ∧ ticks 4 s = .next { t with stage := .fetch }))

/-! ### The rows of the opcode table: result, frame and completion -/

/-- NOP completes and changes nothing. Formalises 42_nop.md (R105, pseudocode). -/
def Obligations.NopChangesNothing : Prop :=
  ∀ s : State, ∃ t, exec .nop s = .next t ∧ Completed t ∧ Unchanged s t

/-- LD r,r' completes with the source's byte in the destination and everything else unchanged. Formalises 43_load8.md
section 1 (R108, pseudocode), 41_operands.md section 3 (form L1). -/
def Obligations.RegisterCopies : Prop :=
  ∀ row ∈ regRegRows, ∀ s : State, ∃ t, exec row.1 s = .next t ∧ Completed t ∧
    OneByteWritten row.2.1 (s.regs.read8 row.2.2) s.regs t.regs ∧ SameBytes s t ∧ Rest s t

/-- LD r,(HL), LD A,(BC) and LD A,(DE) load the byte at the pair's value and change nothing else. Formalises
43_load8.md section 1 (R109, R115, R116, pseudocode), 41_operands.md section 3 (form L4). The choices it rests on that
are not the source's own words: log entries 10, 23. -/
def Obligations.RegisterIndirectLoads : Prop :=
  ∀ row ∈ regAtRows, ∀ s : State, (s.regs.read16 row.2.2).toNat < s.dmem.cap →
    ∃ t, exec row.1 s = .next t ∧ Completed t ∧
      OneByteWritten row.2.1 (s.dmem.byteAt (s.regs.read16 row.2.2).toNat) s.regs t.regs ∧ SameBytes s t ∧ Rest s t

/-- LD (HL),r, LD (BC),A and LD (DE),A store the register at the pair's value and change nothing else. Formalises
43_load8.md section 1 (R110, R113, R114, pseudocode), 41_operands.md section 3 (form L5). The choices it rests on that
are not the source's own words: log entries 10, 23. -/
def Obligations.RegisterIndirectStores : Prop :=
  ∀ row ∈ atRegRows, ∀ s : State, s.dmem.wf → (s.regs.read16 row.2.1).toNat < s.dmem.cap →
    ∃ t, exec row.1 s = .next t ∧ Completed t ∧
      OneByteStored (s.regs.read16 row.2.1).toNat (s.regs.read8 row.2.2) s t ∧ t.regs = s.regs ∧ Rest s t

/-- LD r,n puts the trailing byte in the register and changes nothing else. Formalises 43_load8.md section 1 (R111,
pseudocode), 41_operands.md section 3 (form L2). The choices it rests on that are not the source's own words: log entry
23. -/
def Obligations.RegisterImmediates : Prop :=
  ∀ (n : Byte), ∀ row ∈ regImmRows n, ∀ s : State, ∃ t, exec row.1 s = .next t ∧ Completed t ∧
    OneByteWritten row.2 n s.regs t.regs ∧ SameBytes s t ∧ Rest s t

/-- LD A,(nn) loads the byte at nn, LD (nn),A stores A at nn, and neither changes anything else. Formalises 43_load8.md
section 1 (R117, R118, pseudocode), 41_operands.md sections 2 and 3 (R100, forms L4 and L5). The choices it rests on
that are not the source's own words: log entries 19, 23. -/
def Obligations.AbsoluteLoadAndStore : Prop :=
  ∀ (nn : Word) (s : State), nn.toNat < s.dmem.cap →
    (∃ t, exec (.ld_A_atNN nn) s = .next t ∧ Completed t ∧
      OneByteWritten .a (s.dmem.byteAt nn.toNat) s.regs t.regs ∧ SameBytes s t ∧ Rest s t) ∧
    (s.dmem.wf → ∃ t, exec (.ld_atNN_A nn) s = .next t ∧ Completed t ∧
      OneByteStored nn.toNat (s.regs.read8 .a) s t ∧ t.regs = s.regs ∧ Rest s t)

/-- LD rp,nn puts nn[7:0] in the pair's first-named register and nn[15:8] in the other, or nn in SP, and nothing else.
Formalises 44_load16.md (R123, pseudocode), 10_state.md section 1 (R20; D2, log entry 10). The choices it rests on that
are not the source's own words: log entries 10, 23. -/
def Obligations.SixteenBitImmediates : Prop :=
  ∀ (nn : Word) (s : State),
    (∀ row ∈ pairImmRows nn, ∃ t, exec row.1 s = .next t ∧ Completed t ∧
      t.regs.read8 row.2.1 = nn.setWidth 8 ∧ t.regs.read8 row.2.2 = (nn >>> 8).setWidth 8 ∧
      (∀ reg, reg ≠ row.2.1 → reg ≠ row.2.2 → t.regs.read8 reg = s.regs.read8 reg) ∧ SameWords s.regs t.regs ∧
      SameBytes s t ∧ Rest s t) ∧
    (∃ t, exec (.ld_SP_nn nn) s = .next t ∧ Completed t ∧ t.regs = { s.regs with sp := nn } ∧ SameBytes s t ∧ Rest s t)

/-- LD (HL),n, LD (nn),HL, LD HL,(nn), LD SP,HL and every ADD raise UnsupportedOperandForm and change nothing else.
Formalises 43_load8.md section 1 (R112), 44_load16.md (R124 to R126), 45_add.md (R128 to R131), 40_cycle.md section 4
(R88, D5; log entry 13). The choices it rests on that are not the source's own words: log entries 2, 13, 23. -/
def Obligations.UnsupportedRowsOnlyRaise : Prop :=
  ∀ (n : Byte) (nn : Word), ∀ i ∈ unsupportedRows n nn, ∀ s : State,
    ∃ t, exec i s = .next t ∧ Aborted .unsupportedOperandForm t ∧ Unchanged s t

/-- A load or store at or above the capacity of data memory, by a row or any entry, raises OutOfBounds and changes
nothing but PC. Formalises 43_load8.md sections 1 and 2 (R109, R110, R113 to R122, exceptions), 60_exceptions.md
section 1 (R134), 41_operands.md sections 2 and 3 (R98 to R100, R103, D10). The choices it rests on that are not the
source's own words: log entries 2, 10, 11, 12, 13, 16, 19, 23. -/
def Obligations.DataAccessOutOfBounds : Prop :=
  (∀ row ∈ regAtRows, ∀ s : State, s.dmem.cap ≤ (s.regs.read16 row.2.2).toNat →
    ∃ t, exec row.1 s = .next t ∧ Aborted (.outOfBounds .dmem (s.regs.read16 row.2.2).toNat 1) t ∧ Unchanged s t) ∧
  (∀ row ∈ atRegRows, ∀ s : State, s.dmem.cap ≤ (s.regs.read16 row.2.1).toNat →
    ∃ t, exec row.1 s = .next t ∧ Aborted (.outOfBounds .dmem (s.regs.read16 row.2.1).toNat 1) t ∧ Unchanged s t) ∧
  (∀ (nn : Word), ∀ i ∈ [Instr.ld_A_atNN nn, .ld_atNN_A nn], ∀ s : State, s.dmem.cap ≤ nn.toNat →
    ∃ t, exec i s = .next t ∧ Aborted (.outOfBounds .dmem nn.toNat 1) t ∧ Unchanged s t) ∧
  (∀ (s : State) (reg : Reg8) (k : Kind) (a : Operand) (bytes : List Byte) (ea : Word), s.stage = .exec →
    s.current = some ⟨k, .load (.r8 reg) (.mem a)⟩ ∨ s.current = some ⟨k, .load (.mem a) (.r8 reg)⟩ →
    s.imem.Holds s.regs.pc bytes → Addresses s k a bytes ea → s.dmem.cap ≤ ea.toNat →
    step s = .next { pcPlus bytes.length s with
      stage := .fetch
      lastResult := some (.err (.outOfBounds .dmem ea.toNat 1)) })

/-- Every row's own meaning is the operand-resolution rules applied to the row's entry and its trailing bytes.
Formalises 41_operands.md section 3 (R102, R103), 42_nop.md, 43_load8.md, 44_load16.md, 45_add.md (the pseudocode of
each row), 30_encoding.md section 4 (R69). The choices it rests on that are not the source's own words: log entries 22,
23. -/
def Obligations.ExecFollowsOperandResolution : Prop :=
  ∀ (i : Instr) (s : State), exec i s = applyOperation i.template.operation i.trailing s

/-! ### Entries of any table -/

/-- LD r,(IX+d) and LD (IX+d),r, and the same of IY, access base plus signed displacement modulo 2^16. Formalises
43_load8.md section 2 (R119, R120), 41_operands.md section 2 (R99, its decision D4; log entry 12). The choices it rests
on that are not the source's own words: log entries 11, 12. -/
def Obligations.DisplacedIndexedLoadsAndStores : Prop :=
  ∀ (s : State) (x : Reg16) (reg : Reg8) (d : Byte) (ea : Word), s.stage = .exec → x = .ix ∨ x = .iy →
    s.imem.Holds s.regs.pc [d] → ea = s.regs.read16 x + d.signExtend 16 → ea.toNat < s.dmem.cap →
    (s.current = some ⟨.displacement, .load (.r8 reg) (.mem (.r16 x))⟩ →
      ∃ t, step s = .next t ∧ Completed t ∧
        OneByteWritten reg (s.dmem.byteAt ea.toNat) (pcPlus 1 s).regs t.regs ∧ SameBytes s t ∧ Rest s t) ∧
    (s.current = some ⟨.displacement, .load (.mem (.r16 x)) (.r8 reg)⟩ → s.dmem.wf →
      ∃ t, step s = .next t ∧ Completed t ∧
        OneByteStored ea.toNat (s.regs.read8 reg) s t ∧ t.regs = (pcPlus 1 s).regs ∧ Rest s t)

/-- Register-indirect loads and stores through BC, DE, HL, AF, SP or PC, of any 8-bit register. Formalises 43_load8.md
section 2 (R121, R122), 41_operands.md section 2 (R98). The choices it rests on that are not the source's own words:
log entry 10. -/
def Obligations.RegisterIndirectThroughAnyBase : Prop :=
  ∀ (s : State) (p : Reg16) (reg : Reg8), s.stage = .exec → p ≠ .ix → p ≠ .iy →
    (s.regs.read16 p).toNat < s.dmem.cap →
    (s.current = some ⟨.noOperand, .load (.r8 reg) (.mem (.r16 p))⟩ →
      ∃ t, step s = .next t ∧ Completed t ∧
        OneByteWritten reg (s.dmem.byteAt (s.regs.read16 p).toNat) s.regs t.regs ∧ SameBytes s t ∧ Rest s t) ∧
    (s.current = some ⟨.noOperand, .load (.mem (.r16 p)) (.r8 reg)⟩ → s.dmem.wf →
      ∃ t, step s = .next t ∧ Completed t ∧
        OneByteStored (s.regs.read16 p).toNat (s.regs.read8 reg) s t ∧ t.regs = s.regs ∧ Rest s t)

/-- Register copies, byte immediates and absolute loads and stores work for any 8-bit register, F, I and R among them.
Formalises 43_load8.md section 2 (R122), 41_operands.md section 3 (forms L1, L2, L4, L5). The choices it rests on that
are not the source's own words: log entries 11, 19. -/
def Obligations.AnyRegisterForms : Prop :=
  ∀ (s : State) (dst src : Reg8), s.stage = .exec →
    (s.current = some ⟨.noOperand, .load (.r8 dst) (.r8 src)⟩ →
      ∃ t, step s = .next t ∧ Completed t ∧ OneByteWritten dst (s.regs.read8 src) s.regs t.regs ∧ SameBytes s t ∧
        Rest s t) ∧
    (∀ n, s.current = some ⟨.n, .load (.r8 dst) .imm8⟩ → s.imem.Holds s.regs.pc [n] →
      ∃ t, step s = .next t ∧ Completed t ∧ OneByteWritten dst n (pcPlus 1 s).regs t.regs ∧ SameBytes s t ∧ Rest s t) ∧
    (∀ first second, s.imem.Holds s.regs.pc [first, second] → (imm16 first second).toNat < s.dmem.cap →
      (s.current = some ⟨.nn, .load (.r8 dst) (.mem .imm16)⟩ →
        ∃ t, step s = .next t ∧ Completed t ∧
          OneByteWritten dst (s.dmem.byteAt (imm16 first second).toNat) (pcPlus 2 s).regs t.regs ∧ SameBytes s t ∧
          Rest s t) ∧
      (s.current = some ⟨.nn, .load (.mem .imm16) (.r8 src)⟩ → s.dmem.wf →
        ∃ t, step s = .next t ∧ Completed t ∧
          OneByteStored (imm16 first second).toNat (s.regs.read8 src) s t ∧ t.regs = (pcPlus 2 s).regs ∧ Rest s t))

/-- LD X,nn for any pair or 16-bit register writes X after PC has moved, so LD PC,nn is a jump. Formalises 44_load16.md
(R123, R127), 10_state.md section 1 (R20, R22). The choices it rests on that are not the source's own words: log
entries 10, 11. -/
def Obligations.SixteenBitImmediateEntries : Prop :=
  ∀ (s : State) (x : Reg16) (first second : Byte), s.stage = .exec →
    s.current = some ⟨.nn, .load (.r16 x) .imm16⟩ → s.imem.Holds s.regs.pc [first, second] →
    ∃ t, step s = .next t ∧ Completed t ∧ t.regs = (pcPlus 2 s).regs.write16 x (imm16 first second) ∧
      SameBytes s t ∧ Rest s t ∧
      (x = .pc → t.regs = { s.regs with pc := imm16 first second }) ∧
      (x = .af → t.regs.a = first ∧ t.regs.f = second)

/-- A Load of no admitted form, and every Add, raises UnsupportedOperandForm after its trailing fetch. Formalises
41_operands.md sections 2 and 3 (R101, R102; D21, log entry 15), 45_add.md (R132), 40_cycle.md section 4 (R88, D5). The
choices it rests on that are not the source's own words: log entries 2, 13, 14, 15. -/
def Obligations.UnadmittedFormsAreUnsupported : Prop :=
  ∀ (s : State) (v : Instruction) (bytes : List Byte), s.stage = .exec → s.current = some v →
    s.imem.Holds s.regs.pc bytes → bytes.length = v.kind.trailing →
    (∃ dst src, v.operation = .load dst src ∧ dst.admittedLoad v.kind src = false) ∨
      (∃ lhs rhs, v.operation = .add lhs rhs) →
    step s = .next { pcPlus bytes.length s with stage := .fetch, lastResult := some (.err .unsupportedOperandForm) }

/-- An admitted Load that names a selector outside the register sets raises RegisterNotFound after its trailing fetch.
Formalises 60_exceptions.md section 1 (R136), 10_state.md section 1 (R23; log entry 14), 41_operands.md section 3
(R103, D10). The choices it rests on that are not the source's own words: log entries 2, 13, 14, 16. -/
def Obligations.RawSelectorsRaiseRegisterNotFound : Prop :=
  ∀ (s : State) (v : Instruction) (dst src : Operand) (bytes : List Byte), s.stage = .exec → s.current = some v →
    s.imem.Holds s.regs.pc bytes → bytes.length = v.kind.trailing → v.operation = .load dst src →
    dst.admittedLoad v.kind src = true → (dst.selectorsValid && src.selectorsValid) = false →
    step s = .next { pcPlus bytes.length s with stage := .fetch, lastResult := some (.err .registerNotFound) }

/-! ### Whole-machine rules, of every table -/

/-- A register other than PC changes only when the current Load names it, or its pair, as the destination. Formalises
10_state.md section 3 (R27, R28, R29), 41_operands.md section 3 (R104). The choices it rests on that are not the
source's own words: log entry 10. -/
def Obligations.RegistersChangeOnlyAsNamedDestinations : Prop :=
  ∀ s t : State, step s = .next t →
    (∀ reg : Reg8, t.regs.read8 reg ≠ s.regs.read8 reg → s.stage = .exec ∧ ∃ v, s.current = some v ∧
      ((∃ src, v.operation = .load (.r8 reg) src) ∨
        ∃ p high low, pairHalves p = some (high, low) ∧ (reg = high ∨ reg = low) ∧
          v.operation = .load (.r16 p) .imm16)) ∧
    (∀ p : Reg16, pairHalves p = none → p ≠ .pc → t.regs.read16 p ≠ s.regs.read16 p → s.stage = .exec ∧
      ∃ v, s.current = some v ∧ v.operation = .load (.r16 p) .imm16)

/-- PC moves by the bytes a tick fetches, and otherwise only by a Load whose destination is PC. Formalises 10_state.md
section 2 (R25), 40_cycle.md sections 2 to 5 (R79, R81, R84, R89). The choices it rests on that are not the source's
own words: log entries 2, 11, 13. -/
def Obligations.PcMovesOnlyByFetchingOrLoadPc : Prop :=
  ∀ s t : State, step s = .next t →
    (s.stage = .decode ∨ s.stage = .writeback → t.regs.pc = s.regs.pc) ∧
    (s.stage = .fetch → (t.errored = false → t.regs.pc = s.regs.pc + 1) ∧ (t.errored = true → t.regs.pc = s.regs.pc)) ∧
    (s.stage = .exec → ∃ v, s.current = some v ∧
      ((∃ n, n < v.kind.trailing ∧ t.errored = true ∧ t.regs.pc = s.regs.pc + BitVec.ofNat 16 n) ∨
        t.regs.pc = s.regs.pc + BitVec.ofNat 16 v.kind.trailing ∨ v.operation = .load (.r16 .pc) .imm16))

/-- No step writes instruction memory, and data memory changes only in the Exec tick of a store, at its effective
address. Formalises 20_memory.md sections 1 and 3 (R44, R55), 70_reset_and_hazards.md section 3 (R156), 41_operands.md
section 3 (form L5). -/
def Obligations.MemoryIsWrittenOnlyByStores : Prop :=
  ∀ s t : State, step s = .next t →
    t.imem = s.imem ∧
    ∀ addr, t.dmem.byteAt addr ≠ s.dmem.byteAt addr → s.stage = .exec ∧
      ∃ v a reg tr s1, s.current = some v ∧ v.operation = .load (.mem a) (.r8 reg) ∧
        fetchTrailing v.kind s = .ok (tr, s1) ∧ (effectiveAddress s1 tr a).map (·.toNat) = some addr

/-- No step changes the table or a capacity, and decodeMisses counts exactly the warnings. Formalises 00_scope.md
section 2 (R5, R9; log entry 4), 10_state.md sections 4 and 5 (R33, R35). The choices it rests on that are not the
source's own words: log entries 2, 4, 20. -/
def Obligations.ParametersNeverChange : Prop :=
  ∀ s t : State, step s = .next t →
    t.table = s.table ∧ t.imem.cap = s.imem.cap ∧ t.dmem.cap = s.dmem.cap ∧
    ((∃ b, t.lastResult = some (.okDecodeMiss b)) → t.decodeMisses = s.decodeMisses + 1) ∧
    ((¬ ∃ b, t.lastResult = some (.okDecodeMiss b)) → t.decodeMisses = s.decodeMisses)

/-- A constructed machine is at Fetch with PC the start address and everything else the caller's, and meets the
invariant. Formalises 70_reset_and_hazards.md section 1 (R149 to R152; decisions D7, D9, D33), 10_state.md section 6
(R36). The choices it rests on that are not the source's own words: log entries 2, 4, 21, 26. -/
def Obligations.ConstructionState : Prop :=
  ∀ P : Params, P.Legal →
    (State.construct P).stage = .fetch ∧ (State.construct P).pending = none ∧ (State.construct P).current = none ∧
    (State.construct P).decodeMisses = 0 ∧ (State.construct P).regs = { P.initRegs with pc := P.startAddr } ∧
    (State.construct P).imem = P.imem ∧ (State.construct P).dmem = P.dmem ∧ (State.construct P).table = P.table ∧
    (State.construct P).lastResult = none ∧ (State.construct P).Inv

/-- The reset state is a legal construction with the default capacities and REF_TABLE (open values: log entries 6 to
8). Formalises 70_reset_and_hazards.md section 1 (R149), 00_scope.md section 2 (R5, R9), log entries 5 to 9 (the
model's choices for the open parameters). The choices it rests on that are not the source's own words: log entries 5,
6, 7, 8, 9. -/
def Obligations.ResetIsAConstruction : Prop :=
  (∃ P : Params, P.Legal ∧ State.reset = State.construct P) ∧ State.reset.imem.cap = 131072 ∧
  State.reset.dmem.cap = 131072 ∧ State.reset.table = refTable ∧ State.reset.Inv

/-- Every step keeps the invariant: canonical memories, a pending byte exactly at Decode, a current entry at Exec and
Writeback. Formalises 40_cycle.md (R77, R79, R81, R83, R86, R88, R89), 20_memory.md section 1 (R38, R43), 10_state.md
section 4 (R31, R32). The choices it rests on that are not the source's own words: log entries 3, 13, 21. -/
def Obligations.InvariantIsKept : Prop :=
  ∀ s t : State, s.Inv → step s = .next t → t.Inv

/-- From every construction, after any number of ticks, the next tick answers a next state: EmptyOpcode is never
reached. Formalises 40_cycle.md sections 1, 3 and 4 (R78, R82, R87), 60_exceptions.md sections 1 and 4 (R137, R148).
The choices it rests on that are not the source's own words: log entries 2, 3, 21. -/
def Obligations.ReachableMachineNeverStops : Prop :=
  ∀ s : State, Reachable s → ∃ t, step s = .next t

/-- A step that returns an error changes no register but PC, no memory byte, and nothing but stage and PC. Formalises
41_operands.md section 3 (R103, D10), 40_cycle.md section 4 (R88, D5), 60_exceptions.md section 2 (R139). The choices
it rests on that are not the source's own words: log entries 2, 13, 16. -/
def Obligations.AbortedExecChangesOnlyPc : Prop :=
  ∀ s t : State, step s = .next t → t.errored = true →
    t.stage = .fetch ∧ (∀ reg, t.regs.read8 reg = s.regs.read8 reg) ∧ t.regs.sp = s.regs.sp ∧ t.regs.ix = s.regs.ix ∧
    t.regs.iy = s.regs.iy ∧ SameBytes s t ∧ Rest s t

/-- What a tick does does not depend on what the last tick returned. Formalises 60_exceptions.md section 2 (R141, its
decision D34; log entry 2). The choices it rests on that are not the source's own words: log entry 2. -/
def Obligations.ErrorsAreNotRemembered : Prop :=
  ∀ (s : State) (r : Option TickResult), step { s with lastResult := r } = step s

/-- A table that passes the admitted-form check raises UnsupportedOperandForm from no Load; valid selectors, no
RegisterNotFound. Formalises 30_encoding.md section 5 (R74), 60_exceptions.md section 1 (R135, R136). The choices it
rests on that are not the source's own words: log entries 2, 14, 15. -/
def Obligations.CheckedTablesRaiseNoFormError : Prop :=
  (∀ s t : State, s.Inv → step s = .next t →
    (DecodeTable.loadsAdmitted s.table = true →
      (∀ v lhs rhs, s.current = some v → v.operation ≠ .add lhs rhs) →
      t.lastResult ≠ some (.err .unsupportedOperandForm)) ∧
    (DecodeTable.selectorsValid s.table = true → t.lastResult ≠ some (.err .registerNotFound))) ∧
  DecodeTable.selectorsValid refTable = true

/-- With both capacities at least 65536, no step returns OutOfBounds. Formalises 20_memory.md section 2 (R46, marked
derived there). The choices it rests on that are not the source's own words: log entry 2. -/
def Obligations.LargeCapacitiesRaiseNoOutOfBounds : Prop :=
  ∀ s t : State, 65536 ≤ s.imem.cap → 65536 ≤ s.dmem.cap → step s = .next t →
    ∀ M addr width, t.lastResult ≠ some (.err (.outOfBounds M addr width))

/-- The run loop tests the predicate at Fetch, then ticks and spends one fuel; it stops at the predicate, the first
error, or out of fuel. Formalises 40_cycle.md section 6 (R91, its decision D16; log entry 24), 60_exceptions.md section
1 (R137; log entry 3). The choices it rests on that are not the source's own words: log entries 2, 3, 24. -/
def Obligations.RunLoopStopsAsTheReferenceLoop : Prop :=
  ∀ (terminate : State → Bool) (fuel : Nat) (s : State),
    (s.stage = .fetch → terminate s = true → runLoop terminate fuel s = .terminated s) ∧
    ((s.stage = .fetch → terminate s = false) →
      runLoop terminate 0 s = .outOfFuel s ∧
      (∀ t e, step s = .next t → t.lastResult = some (.err e) → runLoop terminate (fuel + 1) s = .error e t) ∧
      (∀ t, step s = .next t → (∀ e, t.lastResult ≠ some (.err e)) →
        runLoop terminate (fuel + 1) s = runLoop terminate fuel t) ∧
      (∀ t, step s = .refused (.emptyOpcode t) → runLoop terminate (fuel + 1) s = .error .emptyOpcode t)) ∧
    (s.Inv →
      (∀ t, runLoop terminate fuel s = .terminated t → t.stage = .fetch ∧ terminate t = true) ∧
      (∀ e t, runLoop terminate fuel s = .error e t → t.lastResult = some (.err e) ∧ t.stage = .fetch) ∧
      (∀ r, runLoop terminate fuel s ≠ .refused r))

/-! ### The host interface, beside AccessOutsideCapacityFails -/

/-- Host reads return the bytes of the memory named, and host writes replace that memory alone, by what set or store
gives. Formalises 20_memory.md sections 1 and 3 (R38 to R42, R57; decisions D15, D26; log entries 17, 18), 10_state.md
section 5 (R34). The choices it rests on that are not the source's own words: log entries 17, 18. -/
def Obligations.HostAccessesReachTheNamedMemory : Prop :=
  ∀ (s : State) (M : MemId) (addr : Nat),
    (addr + 1 ≤ (s.mem M).cap →
      s.hostGet1 M addr = .ok ((s.mem M).byteAt addr) ∧
      ∀ v, s.lastResult = none → ∃ t, s.hostSet1 M addr v = .ok t ∧ (s.mem M).set1 addr v = some (t.mem M) ∧
        OnlyMemory M s t) ∧
    (addr + 2 ≤ (s.mem M).cap →
      s.hostGet2 M addr =
        .ok (((s.mem M).byteAt addr).setWidth 16 <<< 8 ||| ((s.mem M).byteAt (addr + 1)).setWidth 16) ∧
      ∀ v, s.lastResult = none → ∃ t, s.hostSet2 M addr v = .ok t ∧ (s.mem M).set2 addr v = some (t.mem M) ∧
        OnlyMemory M s t) ∧
    (∀ count, addr + count ≤ (s.mem M).cap →
      (∃ bytes, s.hostLoad M addr count = .ok bytes ∧ bytes.length = count ∧
        ∀ k (h : k < bytes.length), bytes[k] = (s.mem M).byteAt (addr + k)) ∧
      ∀ bytes : List Byte, bytes.length = count → s.lastResult = none →
        ∃ t, s.hostStore M addr bytes = .ok t ∧ (s.mem M).store addr bytes = some (t.mem M) ∧ OnlyMemory M s t)
end

