-- ==== Sys2Proof/Laws/Bits.lean ====
section
/-! SUPPORT. Splitting and joining bytes: pair views (10_state.md R19, R20) and 16-bit immediates (30_encoding.md R66). -/

namespace Sys2Proof

@[simp] theorem imm16First_imm16 (first second : Byte) : imm16First (imm16 first second) = first := by
  ext i hi
  simp [imm16First, imm16]

@[simp] theorem imm16Second_imm16 (first second : Byte) : imm16Second (imm16 first second) = second := by
  ext i hi
  have h : 8 + i < 16 := by omega
  have h' : i < 16 := by omega
  simp [imm16Second, imm16, h, h', BitVec.getLsbD_eq_getElem hi]

@[simp] theorem imm16_halves (nn : Word) : imm16 (imm16First nn) (imm16Second nn) = nn := by
  ext i hi
  by_cases h : i < 8
  · simp [imm16, imm16First, imm16Second, h, hi]
  · have : i - 8 < 8 := by omega
    have e : 8 + (i - 8) = i := by omega
    simp [imm16, imm16First, imm16Second, h, hi, this, e]

namespace Machine

@[simp] theorem pairHigh_pairValue (high low : Byte) : pairHigh (pairValue high low) = high := by
  ext i hi
  simp [pairHigh, pairValue]

@[simp] theorem pairLow_pairValue (high low : Byte) : pairLow (pairValue high low) = low := by
  ext i hi
  have h : 8 + i < 16 := by omega
  have h' : i < 16 := by omega
  simp [pairLow, pairValue, h, h', BitVec.getLsbD_eq_getElem hi]

@[simp] theorem pairValue_halves (v : Word) : pairValue (pairHigh v) (pairLow v) = v := by
  ext i hi
  by_cases h : i < 8
  · simp [pairValue, pairHigh, pairLow, h, hi]
  · have : i - 8 < 8 := by omega
    have e : 8 + (i - 8) = i := by omega
    simp [pairValue, pairHigh, pairLow, h, hi, this, e]

end Machine

end Sys2Proof
end

