-- ==== Sys2Proof/Laws/Decode.lean ====
section
/-! SUPPORT. Decoding: table lookups, trailing bytes, and the rows of REF_TABLE an operation and its bytes determine
(spec/30_encoding.md). -/

namespace Sys2Proof

/-! ### Tables -/

/-- The three fields determine the opcode byte (30_encoding.md R62). -/
theorem fields_injective {b b' : Byte} (hx : fieldX b = fieldX b') (hy : fieldY b = fieldY b')
    (hz : fieldZ b = fieldZ b') : b = b' := by
  have recover : ∀ c : Byte, c = (fieldX c ++ fieldY c ++ fieldZ c) := by decide
  rw [recover b, recover b', hx, hy, hz]

theorem DecodeTable.lookup_place_same (t : DecodeTable) (b : Byte) (e : Option Instruction) :
    DecodeTable.lookup (DecodeTable.place t b e) b = e := by
  simp [DecodeTable.lookup, DecodeTable.place]

theorem DecodeTable.lookup_place_other (t : DecodeTable) {b b' : Byte} (e : Option Instruction) (h : b' ≠ b) :
    DecodeTable.lookup (DecodeTable.place t b e) b' = DecodeTable.lookup t b' := by
  by_cases hx : (fieldX b).toNat = (fieldX b').toNat
  · by_cases hz : (fieldZ b).toNat = (fieldZ b').toNat
    · have hy : (fieldY b).toNat ≠ (fieldY b').toNat := fun hy =>
        h (fields_injective (BitVec.eq_of_toNat_eq hx.symm) (BitVec.eq_of_toNat_eq hy.symm) (BitVec.eq_of_toNat_eq hz.symm))
      simp [DecodeTable.lookup, DecodeTable.place, hx, hz, Vector.getElem_set_ne _ _ hy]
    · simp [DecodeTable.lookup, DecodeTable.place, hx, Vector.getElem_set_ne _ _ hz]
  · simp [DecodeTable.lookup, DecodeTable.place, Vector.getElem_set_ne _ _ hx]

/-- A check that every entry passes is passed by the entry looked up. -/
theorem DecodeTable.lookup_of_all {t : DecodeTable} {ok : Instruction → Bool} (h : DecodeTable.all t ok = true) {b : Byte}
    {v : Instruction} (hv : DecodeTable.lookup t b = some v) : ok v = true := by
  simp only [DecodeTable.all, List.all_eq_true, Vector.mem_toList_iff] at h
  have hrow := h _ (Vector.getElem_mem (fieldX b).isLt) _ (Vector.getElem_mem (fieldZ b).isLt) _
    (Vector.getElem_mem (fieldY b).isLt)
  rw [DecodeTable.lookup] at hv
  simp only [hv] at hrow
  exact hrow

/-- REF_TABLE holds at each opcode what the conditions of 30_encoding.md R69 give. -/
theorem lookup_refTable : ∀ b : Byte, DecodeTable.lookup refTable b = refEntry (fieldX b) (fieldZ b) (fieldY b) := by
  decide

/-! ### Trailing bytes -/

@[simp] theorem Trailing.bytes_length (t : Trailing) : t.bytes.length = t.kind.trailing := by cases t <;> rfl

@[simp] theorem takeTrailing_append (t : Trailing) (rest : List Byte) :
    takeTrailing t.kind (t.bytes ++ rest) = some (t, rest) := by cases t <;> rfl

/-- What is taken is a prefix of the list, of the kind asked for (30_encoding.md R63). -/
theorem takeTrailing_eq_some {k : Kind} {bytes rest : List Byte} {t : Trailing}
    (h : takeTrailing k bytes = some (t, rest)) : t.kind = k ∧ bytes = t.bytes ++ rest := by
  unfold takeTrailing at h
  split at h <;> simp_all <;> (obtain ⟨rfl, rfl⟩ := h; exact ⟨rfl, rfl⟩)

/-! ### Rows -/

theorem ldRegRegRow_eq_some {dst src : Reg8} {i : Instr} (h : ldRegRegRow dst src = some i) :
    i.template = ⟨.noOperand, .load (.r8 dst) (.r8 src)⟩ ∧ i.trailing = .noOperand := by
  cases dst <;> cases src <;> cases h <;> exact ⟨rfl, rfl⟩

theorem ldRegAtRow_eq_some {dst : Reg8} {p : Reg16} {i : Instr} (h : ldRegAtRow dst p = some i) :
    i.template = ⟨.noOperand, .load (.r8 dst) (.mem (.r16 p))⟩ ∧ i.trailing = .noOperand := by
  cases dst <;> cases p <;> cases h <;> exact ⟨rfl, rfl⟩

theorem ldAtRegRow_eq_some {p : Reg16} {src : Reg8} {i : Instr} (h : ldAtRegRow p src = some i) :
    i.template = ⟨.noOperand, .load (.mem (.r16 p)) (.r8 src)⟩ ∧ i.trailing = .noOperand := by
  cases p <;> cases src <;> cases h <;> exact ⟨rfl, rfl⟩

theorem ldRegImmRow_eq_some {n : Byte} {dst : Reg8} {i : Instr} (h : ldRegImmRow n dst = some i) :
    i.template = ⟨.n, .load (.r8 dst) .imm8⟩ ∧ i.trailing = .n n := by
  cases dst <;> cases h <;> exact ⟨rfl, rfl⟩

theorem ldPairImmRow_eq_some {nn : Word} {p : Reg16} {i : Instr} (h : ldPairImmRow nn p = some i) :
    i.template = ⟨.nn, .load (.r16 p) .imm16⟩ ∧ i.trailing = .nn (imm16First nn) (imm16Second nn) := by
  cases p <;> cases h <;> exact ⟨rfl, rfl⟩

theorem addRegRow_eq_some {src : Reg8} {i : Instr} (h : addRegRow src = some i) :
    i.template = ⟨.noOperand, .add (.r8 .a) (.r8 src)⟩ ∧ i.trailing = .noOperand := by
  cases src <;> cases h <;> exact ⟨rfl, rfl⟩

theorem addPairRow_eq_some {p : Reg16} {i : Instr} (h : addPairRow p = some i) :
    i.template = ⟨.noOperand, .add (.r16 .hl) (.r16 p)⟩ ∧ i.trailing = .noOperand := by
  cases p <;> cases h <;> exact ⟨rfl, rfl⟩

/-- The row found for an operation and its bytes has that operation, the kind of those bytes, and those bytes. -/
theorem Instr.ofFetched_eq_some {op : Operation} {t : Trailing} {i : Instr} (h : Instr.ofFetched op t = some i) :
    i.template = ⟨t.kind, op⟩ ∧ i.trailing = t := by
  cases op with
  | nop => cases t <;> cases h; exact ⟨rfl, rfl⟩
  | load dst src =>
    simp only [Instr.ofFetched] at h
    unfold loadRow at h
    split at h
    · exact ldRegRegRow_eq_some h
    · exact ldRegAtRow_eq_some h
    · exact ldAtRegRow_eq_some h
    · cases h; exact ⟨rfl, rfl⟩
    · exact ldRegImmRow_eq_some h
    · cases h; exact ⟨rfl, rfl⟩
    · simpa [Trailing.kind] using ldPairImmRow_eq_some h
    · cases h; simp [Instr.template, Instr.trailing, Trailing.kind]
    · cases h; simp [Instr.template, Instr.trailing, Trailing.kind]
    · cases h; simp [Instr.template, Instr.trailing, Trailing.kind]
    · cases h; simp [Instr.template, Instr.trailing, Trailing.kind]
    · cases h
  | add lhs rhs =>
    simp only [Instr.ofFetched] at h
    unfold addRow at h
    split at h
    · exact addRegRow_eq_some h
    · cases h; exact ⟨rfl, rfl⟩
    · cases h; exact ⟨rfl, rfl⟩
    · exact addPairRow_eq_some h
    · cases h

end Sys2Proof
end

