-- ==== Sys2Proof/Laws/State.lean ====
section
/-! SUPPORT. One lemma per field of State per update, each true by rfl, so that no later proof unfolds a record update;
construction field by field; and the register reads of the state. -/

namespace Sys2Proof.Machine

variable (s : State)

/-! ### write8 -/

@[simp] theorem State.write8_regs (reg : Reg8) (v : Byte) : (s.write8 reg v).regs = s.regs.write8 reg v := rfl
@[simp] theorem State.write8_imem (reg : Reg8) (v : Byte) : (s.write8 reg v).imem = s.imem := rfl
@[simp] theorem State.write8_dmem (reg : Reg8) (v : Byte) : (s.write8 reg v).dmem = s.dmem := rfl
@[simp] theorem State.write8_stage (reg : Reg8) (v : Byte) : (s.write8 reg v).stage = s.stage := rfl
@[simp] theorem State.write8_pending (reg : Reg8) (v : Byte) : (s.write8 reg v).pending = s.pending := rfl
@[simp] theorem State.write8_current (reg : Reg8) (v : Byte) : (s.write8 reg v).current = s.current := rfl
@[simp] theorem State.write8_decodeMisses (reg : Reg8) (v : Byte) : (s.write8 reg v).decodeMisses = s.decodeMisses := rfl
@[simp] theorem State.write8_table (reg : Reg8) (v : Byte) : (s.write8 reg v).table = s.table := rfl
@[simp] theorem State.write8_lastResult (reg : Reg8) (v : Byte) : (s.write8 reg v).lastResult = s.lastResult := rfl

/-! ### write16 -/

@[simp] theorem State.write16_regs (p : Reg16) (v : Word) : (s.write16 p v).regs = s.regs.write16 p v := rfl
@[simp] theorem State.write16_imem (p : Reg16) (v : Word) : (s.write16 p v).imem = s.imem := rfl
@[simp] theorem State.write16_dmem (p : Reg16) (v : Word) : (s.write16 p v).dmem = s.dmem := rfl
@[simp] theorem State.write16_stage (p : Reg16) (v : Word) : (s.write16 p v).stage = s.stage := rfl
@[simp] theorem State.write16_pending (p : Reg16) (v : Word) : (s.write16 p v).pending = s.pending := rfl
@[simp] theorem State.write16_current (p : Reg16) (v : Word) : (s.write16 p v).current = s.current := rfl
@[simp] theorem State.write16_decodeMisses (p : Reg16) (v : Word) : (s.write16 p v).decodeMisses = s.decodeMisses := rfl
@[simp] theorem State.write16_table (p : Reg16) (v : Word) : (s.write16 p v).table = s.table := rfl
@[simp] theorem State.write16_lastResult (p : Reg16) (v : Word) : (s.write16 p v).lastResult = s.lastResult := rfl

/-! ### advance -/

@[simp] theorem State.advance_regs (n : Nat) : (s.advance n).regs = s.regs.advance n := rfl
@[simp] theorem State.advance_imem (n : Nat) : (s.advance n).imem = s.imem := rfl
@[simp] theorem State.advance_dmem (n : Nat) : (s.advance n).dmem = s.dmem := rfl
@[simp] theorem State.advance_stage (n : Nat) : (s.advance n).stage = s.stage := rfl
@[simp] theorem State.advance_pending (n : Nat) : (s.advance n).pending = s.pending := rfl
@[simp] theorem State.advance_current (n : Nat) : (s.advance n).current = s.current := rfl
@[simp] theorem State.advance_decodeMisses (n : Nat) : (s.advance n).decodeMisses = s.decodeMisses := rfl
@[simp] theorem State.advance_table (n : Nat) : (s.advance n).table = s.table := rfl
@[simp] theorem State.advance_lastResult (n : Nat) : (s.advance n).lastResult = s.lastResult := rfl

/-! ### completed -/

@[simp] theorem State.completed_regs : (s.completed).regs = s.regs := rfl
@[simp] theorem State.completed_imem : (s.completed).imem = s.imem := rfl
@[simp] theorem State.completed_dmem : (s.completed).dmem = s.dmem := rfl
@[simp] theorem State.completed_stage : (s.completed).stage = .writeback := rfl
@[simp] theorem State.completed_pending : (s.completed).pending = s.pending := rfl
@[simp] theorem State.completed_current : (s.completed).current = s.current := rfl
@[simp] theorem State.completed_decodeMisses : (s.completed).decodeMisses = s.decodeMisses := rfl
@[simp] theorem State.completed_table : (s.completed).table = s.table := rfl
@[simp] theorem State.completed_lastResult : (s.completed).lastResult = some .ok := rfl

/-! ### aborted -/

@[simp] theorem State.aborted_regs (e : EngineError) : (s.aborted e).regs = s.regs := rfl
@[simp] theorem State.aborted_imem (e : EngineError) : (s.aborted e).imem = s.imem := rfl
@[simp] theorem State.aborted_dmem (e : EngineError) : (s.aborted e).dmem = s.dmem := rfl
@[simp] theorem State.aborted_stage (e : EngineError) : (s.aborted e).stage = .fetch := rfl
@[simp] theorem State.aborted_pending (e : EngineError) : (s.aborted e).pending = s.pending := rfl
@[simp] theorem State.aborted_current (e : EngineError) : (s.aborted e).current = s.current := rfl
@[simp] theorem State.aborted_decodeMisses (e : EngineError) : (s.aborted e).decodeMisses = s.decodeMisses := rfl
@[simp] theorem State.aborted_table (e : EngineError) : (s.aborted e).table = s.table := rfl
@[simp] theorem State.aborted_lastResult (e : EngineError) : (s.aborted e).lastResult = some (.err e) := rfl

/-! ### decodeHit -/

@[simp] theorem State.decodeHit_regs (v : Instruction) : (decodeHit v s).regs = s.regs := rfl
@[simp] theorem State.decodeHit_imem (v : Instruction) : (decodeHit v s).imem = s.imem := rfl
@[simp] theorem State.decodeHit_dmem (v : Instruction) : (decodeHit v s).dmem = s.dmem := rfl
@[simp] theorem State.decodeHit_stage (v : Instruction) : (decodeHit v s).stage = .exec := rfl
@[simp] theorem State.decodeHit_pending (v : Instruction) : (decodeHit v s).pending = none := rfl
@[simp] theorem State.decodeHit_current (v : Instruction) : (decodeHit v s).current = some v := rfl
@[simp] theorem State.decodeHit_decodeMisses (v : Instruction) : (decodeHit v s).decodeMisses = s.decodeMisses := rfl
@[simp] theorem State.decodeHit_table (v : Instruction) : (decodeHit v s).table = s.table := rfl
@[simp] theorem State.decodeHit_lastResult (v : Instruction) : (decodeHit v s).lastResult = some .ok := rfl

/-! ### decodeMiss -/

@[simp] theorem State.decodeMiss_regs (b : Byte) : (decodeMiss b s).regs = s.regs := rfl
@[simp] theorem State.decodeMiss_imem (b : Byte) : (decodeMiss b s).imem = s.imem := rfl
@[simp] theorem State.decodeMiss_dmem (b : Byte) : (decodeMiss b s).dmem = s.dmem := rfl
@[simp] theorem State.decodeMiss_stage (b : Byte) : (decodeMiss b s).stage = .exec := rfl
@[simp] theorem State.decodeMiss_pending (b : Byte) : (decodeMiss b s).pending = none := rfl
@[simp] theorem State.decodeMiss_current (b : Byte) : (decodeMiss b s).current = some Instruction.placeholder := rfl
@[simp] theorem State.decodeMiss_decodeMisses (b : Byte) : (decodeMiss b s).decodeMisses = s.decodeMisses + 1 := rfl
@[simp] theorem State.decodeMiss_table (b : Byte) : (decodeMiss b s).table = s.table := rfl
@[simp] theorem State.decodeMiss_lastResult (b : Byte) : (decodeMiss b s).lastResult = some (.okDecodeMiss b) := rfl

/-! ### setDmem -/

@[simp] theorem State.setDmem_regs (m : Memory) : (s.setMem .dmem m).regs = s.regs := rfl
@[simp] theorem State.setDmem_imem (m : Memory) : (s.setMem .dmem m).imem = s.imem := rfl
@[simp] theorem State.setDmem_dmem (m : Memory) : (s.setMem .dmem m).dmem = m := rfl
@[simp] theorem State.setDmem_stage (m : Memory) : (s.setMem .dmem m).stage = s.stage := rfl
@[simp] theorem State.setDmem_pending (m : Memory) : (s.setMem .dmem m).pending = s.pending := rfl
@[simp] theorem State.setDmem_current (m : Memory) : (s.setMem .dmem m).current = s.current := rfl
@[simp] theorem State.setDmem_decodeMisses (m : Memory) : (s.setMem .dmem m).decodeMisses = s.decodeMisses := rfl
@[simp] theorem State.setDmem_table (m : Memory) : (s.setMem .dmem m).table = s.table := rfl
@[simp] theorem State.setDmem_lastResult (m : Memory) : (s.setMem .dmem m).lastResult = s.lastResult := rfl

/-! ### setImem -/

@[simp] theorem State.setImem_regs (m : Memory) : (s.setMem .imem m).regs = s.regs := rfl
@[simp] theorem State.setImem_imem (m : Memory) : (s.setMem .imem m).imem = m := rfl
@[simp] theorem State.setImem_dmem (m : Memory) : (s.setMem .imem m).dmem = s.dmem := rfl
@[simp] theorem State.setImem_stage (m : Memory) : (s.setMem .imem m).stage = s.stage := rfl
@[simp] theorem State.setImem_pending (m : Memory) : (s.setMem .imem m).pending = s.pending := rfl
@[simp] theorem State.setImem_current (m : Memory) : (s.setMem .imem m).current = s.current := rfl
@[simp] theorem State.setImem_decodeMisses (m : Memory) : (s.setMem .imem m).decodeMisses = s.decodeMisses := rfl
@[simp] theorem State.setImem_table (m : Memory) : (s.setMem .imem m).table = s.table := rfl
@[simp] theorem State.setImem_lastResult (m : Memory) : (s.setMem .imem m).lastResult = s.lastResult := rfl

/-! ### deferredEffects -/

@[simp] theorem State.deferredEffects_regs : (deferredEffects s).regs = s.regs := rfl
@[simp] theorem State.deferredEffects_imem : (deferredEffects s).imem = s.imem := rfl
@[simp] theorem State.deferredEffects_dmem : (deferredEffects s).dmem = s.dmem := rfl
@[simp] theorem State.deferredEffects_stage : (deferredEffects s).stage = s.stage := rfl
@[simp] theorem State.deferredEffects_pending : (deferredEffects s).pending = s.pending := rfl
@[simp] theorem State.deferredEffects_current : (deferredEffects s).current = s.current := rfl
@[simp] theorem State.deferredEffects_decodeMisses : (deferredEffects s).decodeMisses = s.decodeMisses := rfl
@[simp] theorem State.deferredEffects_table : (deferredEffects s).table = s.table := rfl
@[simp] theorem State.deferredEffects_lastResult : (deferredEffects s).lastResult = s.lastResult := rfl

/-! ### construct -/

@[simp] theorem State.construct_regs (P : Params) : (State.construct P).regs = { P.initRegs with pc := P.startAddr } := rfl
@[simp] theorem State.construct_imem (P : Params) : (State.construct P).imem = P.imem := rfl
@[simp] theorem State.construct_dmem (P : Params) : (State.construct P).dmem = P.dmem := rfl
@[simp] theorem State.construct_stage (P : Params) : (State.construct P).stage = .fetch := rfl
@[simp] theorem State.construct_pending (P : Params) : (State.construct P).pending = none := rfl
@[simp] theorem State.construct_current (P : Params) : (State.construct P).current = none := rfl
@[simp] theorem State.construct_decodeMisses (P : Params) : (State.construct P).decodeMisses = 0 := rfl
@[simp] theorem State.construct_table (P : Params) : (State.construct P).table = P.table := rfl
@[simp] theorem State.construct_lastResult (P : Params) : (State.construct P).lastResult = none := rfl

/-! ### Reads of the state are reads of its parts -/

theorem State.read8_eq (reg : Reg8) : s.read8 reg = s.regs.read8 reg := rfl

theorem State.read16_eq (p : Reg16) : s.read16 p = s.regs.read16 p := rfl

@[simp] theorem State.mem_imem : s.mem .imem = s.imem := rfl

@[simp] theorem State.mem_dmem : s.mem .dmem = s.dmem := rfl

end Sys2Proof.Machine
end

