-- ==== Sys2Proof/Laws/Memory.lean ====
section
/-! SUPPORT. Memory: reads after writes, the bounds checks, and that every memory operation keeps the canonical form
(20_memory.md R38 to R43). -/

namespace Sys2Proof.Machine

/-! ### Cells -/

/-- No address of the list is `addr`. -/
theorem readCell_of_not_mem {cells : List Host.Cell} {addr : Nat} (h : ∀ c ∈ cells, c.1 ≠ addr) :
    readCell cells addr = Config.unplacedByte := by
  induction cells with
  | nil => rfl
  | cons c rest ih =>
    have hc : addr ≠ c.1 := fun e => h c (by simp) e.symm
    simp only [readCell, hc, if_false]
    exact ih fun d hd => h d (by simp [hd])

theorem readCell_writeCell_other (cells : List Host.Cell) {addr other : Nat} (b : Byte) (h : other ≠ addr) :
    readCell (writeCell cells addr b) other = readCell cells other := by
  induction cells with
  | nil => unfold writeCell; split <;> simp [readCell, h]
  | cons c rest ih =>
    unfold writeCell
    split
    · split <;> simp [readCell, h]
    · split
      · rename_i e
        subst e
        split <;> simp [readCell, h]
      · simp [readCell, ih]

theorem readCell_writeCell_same {cells : List Host.Cell} (sorted : cells.Pairwise fun x y => x.1 < y.1) (addr : Nat)
    (b : Byte) : readCell (writeCell cells addr b) addr = b := by
  induction cells with
  | nil => unfold writeCell; split <;> simp_all [readCell]
  | cons c rest ih =>
    obtain ⟨first, sorted⟩ := List.pairwise_cons.mp sorted
    unfold writeCell
    split
    · rename_i lt
      split
      · rename_i e
        rw [e]
        refine readCell_of_not_mem fun d hd => ?_
        rcases List.mem_cons.mp hd with rfl | hd
        · exact Nat.ne_of_gt lt
        · exact Nat.ne_of_gt (Nat.lt_trans lt (first d hd))
      · simp [readCell]
    · split
      · rename_i e
        subst e
        split
        · rename_i eb
          rw [eb]
          exact readCell_of_not_mem fun d hd => Nat.ne_of_gt (first d hd)
        · simp [readCell]
      · rename_i ne
        simp [readCell, ne, ih sorted]

/-- What a cell of the written list is. -/
theorem mem_writeCell {cells : List Host.Cell} {addr : Nat} {b : Byte} {c : Host.Cell} (h : c ∈ writeCell cells addr b) :
    c ∈ cells ∨ (c = (addr, b) ∧ b ≠ Config.unplacedByte) := by
  induction cells with
  | nil =>
    unfold writeCell at h
    split at h <;> simp_all
  | cons d rest ih =>
    unfold writeCell at h
    split at h
    · split at h
      · exact .inl h
      · rcases List.mem_cons.mp h with rfl | h
        · exact .inr ⟨rfl, by assumption⟩
        · exact .inl h
    · split at h
      · split at h
        · exact .inl (List.mem_cons_of_mem _ h)
        · rename_i e _
          rcases List.mem_cons.mp h with rfl | h
          · exact .inr ⟨by rw [e], by assumption⟩
          · exact .inl (List.mem_cons_of_mem _ h)
      · rcases List.mem_cons.mp h with rfl | h
        · simp
        · rcases ih h with h | h
          · exact .inl (by simp [h])
          · exact .inr h

theorem writeCell_sorted {cells : List Host.Cell} (sorted : cells.Pairwise fun x y => x.1 < y.1) (addr : Nat) (b : Byte) :
    (writeCell cells addr b).Pairwise fun x y => x.1 < y.1 := by
  induction cells with
  | nil => unfold writeCell; split <;> simp
  | cons c rest ih =>
    obtain ⟨first, sorted'⟩ := List.pairwise_cons.mp sorted
    unfold writeCell
    split
    · rename_i lt
      split
      · exact sorted
      · refine List.pairwise_cons.mpr ⟨fun d hd => ?_, sorted⟩
        rcases List.mem_cons.mp hd with rfl | hd
        · exact lt
        · exact Nat.lt_trans lt (first d hd)
    · split
      · split
        · exact sorted'
        · exact List.pairwise_cons.mpr ⟨first, sorted'⟩
      · rename_i nlt ne
        refine List.pairwise_cons.mpr ⟨fun d hd => ?_, ih sorted'⟩
        rcases mem_writeCell hd with hd | ⟨rfl, -⟩
        · exact first d hd
        · exact Nat.lt_of_le_of_ne (Nat.le_of_not_lt nlt) (Ne.symm ne)

/-! ### The canonical form is kept -/

theorem Memory.setByte_wf {m : Memory} (wf : m.wf) {addr : Nat} (h : addr < m.cap) (b : Byte) : (m.setByte addr b).wf := by
  obtain ⟨sorted, listed, cap⟩ := wf
  refine ⟨writeCell_sorted sorted addr b, fun c hc => ?_, cap⟩
  rcases mem_writeCell hc with hc | ⟨rfl, hb⟩
  · exact listed c hc
  · exact ⟨h, hb⟩

@[simp] theorem Memory.setByte_cap (m : Memory) (addr : Nat) (b : Byte) : (m.setByte addr b).cap = m.cap := rfl

@[simp] theorem Memory.inBounds_one (m : Memory) (addr : Nat) : m.inBounds addr 1 = decide (addr < m.cap) := by
  simp [Memory.inBounds]

@[simp] theorem Memory.inBounds_two (m : Memory) (addr : Nat) : m.inBounds addr 2 = decide (addr + 1 < m.cap) := by
  simp [Memory.inBounds, Nat.lt_iff_add_one_le, Nat.add_assoc]

theorem Memory.set1_wf {m m' : Memory} (wf : m.wf) {addr : Nat} {v : Byte} (h : m.set1 addr v = some m') : m'.wf := by
  simp only [Memory.set1, Memory.inBounds_one, decide_eq_true_eq, Option.ite_none_right_eq_some, Option.some.injEq] at h
  exact h.2 ▸ Memory.setByte_wf wf h.1 v

theorem Memory.set2_wf {m m' : Memory} (wf : m.wf) {addr : Nat} {v : Word} (h : m.set2 addr v = some m') : m'.wf := by
  simp only [Memory.set2, Memory.inBounds_two, decide_eq_true_eq, Option.ite_none_right_eq_some, Option.some.injEq] at h
  obtain ⟨lt, rfl⟩ := h
  exact Memory.setByte_wf (Memory.setByte_wf wf (Nat.lt_of_succ_lt lt) _) lt _

@[simp] theorem Memory.setBytes_cap (m : Memory) (addr : Nat) (bytes : List Byte) :
    (m.setBytes addr bytes).cap = m.cap := by
  induction bytes generalizing m addr with
  | nil => rfl
  | cons b rest ih => simp [Memory.setBytes, ih]

theorem Memory.setBytes_wf {m : Memory} (wf : m.wf) {addr : Nat} {bytes : List Byte} (h : addr + bytes.length ≤ m.cap) :
    (m.setBytes addr bytes).wf := by
  induction bytes generalizing m addr with
  | nil => exact wf
  | cons b rest ih =>
    simp only [List.length_cons] at h
    exact ih (Memory.setByte_wf wf (by omega) b) (by simp only [Memory.setByte_cap]; omega)

theorem Memory.store_wf {m m' : Memory} (wf : m.wf) {addr : Nat} {bytes : List Byte} (h : m.store addr bytes = some m') :
    m'.wf := by
  simp only [Memory.store, Memory.inBounds, decide_eq_true_eq, Option.ite_none_right_eq_some, Option.some.injEq] at h
  exact h.2 ▸ Memory.setBytes_wf wf h.1

/-! ### Reads after writes -/

theorem Memory.byteAt_setByte_same {m : Memory} (wf : m.wf) (addr : Nat) (b : Byte) :
    (m.setByte addr b).byteAt addr = b := readCell_writeCell_same wf.1 addr b

theorem Memory.byteAt_setByte_other (m : Memory) {addr other : Nat} (b : Byte) (h : other ≠ addr) :
    (m.setByte addr b).byteAt other = m.byteAt other := readCell_writeCell_other m.cells b h

/-- A read of one byte is in bounds and gives the byte, or it is out of bounds (20_memory.md R39, R43). -/
theorem Memory.get1_eq (m : Memory) (addr : Nat) :
    m.get1 addr = if addr < m.cap then some (m.byteAt addr) else none := by
  simp [Memory.get1]

/-- A write of one byte is in bounds and sets the byte, or it is out of bounds (20_memory.md R41, R43). -/
theorem Memory.set1_eq (m : Memory) (addr : Nat) (v : Byte) :
    m.set1 addr v = if addr < m.cap then some (m.setByte addr v) else none := by
  simp [Memory.set1]

/-- What a successful one-byte write leaves: the byte, every other byte, and the capacity (20_memory.md R41). -/
theorem Memory.set1_spec {m m' : Memory} (wf : m.wf) {addr : Nat} {v : Byte} (h : m.set1 addr v = some m') :
    m'.cap = m.cap ∧ m'.byteAt addr = v ∧ ∀ other, other ≠ addr → m'.byteAt other = m.byteAt other := by
  rw [Memory.set1_eq] at h
  split at h
  · cases h
    exact ⟨rfl, Memory.byteAt_setByte_same wf addr v, fun _ => Memory.byteAt_setByte_other m v⟩
  · cases h

/-! ### Bulk reads, and the two memories of the state -/

@[simp] theorem Memory.bytesFrom_length (m : Memory) (addr count : Nat) : (m.bytesFrom addr count).length = count := by
  induction count generalizing addr with
  | zero => rfl
  | succ count ih => simp [Memory.bytesFrom, ih]

/-- Each byte of a bulk read is the byte at its address (20_memory.md R42). -/
theorem Memory.bytesFrom_getElem (m : Memory) (addr count : Nat) {k : Nat} (h : k < (m.bytesFrom addr count).length) :
    (m.bytesFrom addr count)[k] = m.byteAt (addr + k) := by
  induction count generalizing addr k with
  | zero => simp [Memory.bytesFrom] at h
  | succ count ih =>
    cases k with
    | zero => rfl
    | succ k =>
      simp only [Memory.bytesFrom, List.getElem_cons_succ]
      rw [ih]
      congr 1
      omega

@[simp] theorem State.mem_setMem_same (s : State) (M : MemId) (m : Memory) : (s.setMem M m).mem M = m := by
  cases M <;> rfl

/-- A write to one memory is never visible in the other (10_state.md R34). -/
theorem State.mem_setMem_other (s : State) {M N : MemId} (m : Memory) (h : N ≠ M) : (s.setMem M m).mem N = s.mem N := by
  cases M <;> cases N <;> first | rfl | exact absurd rfl h

end Sys2Proof.Machine
end

