-- ==== Sys2Proof/Laws/Regs.lean ====
section
/-! SUPPORT. The register file: reads after writes, pair views, and PC's advance (10_state.md R15 to R26). -/

namespace Sys2Proof.Machine

variable (g : Regs)

/-! ### Reads after writes -/

theorem Regs.read8_write8 (reg reg' : Reg8) (v : Byte) :
    (g.write8 reg v).read8 reg' = if reg' = reg then v else g.read8 reg' := by
  cases reg <;> cases reg' <;> rfl

@[simp] theorem Regs.read8_write8_same (reg : Reg8) (v : Byte) : (g.write8 reg v).read8 reg = v := by
  simp [Regs.read8_write8]

theorem Regs.read8_write8_other {reg reg' : Reg8} (v : Byte) (h : reg' ≠ reg) :
    (g.write8 reg v).read8 reg' = g.read8 reg' := by
  simp [Regs.read8_write8, h]

@[simp] theorem Regs.write8_pc (reg : Reg8) (v : Byte) : (g.write8 reg v).pc = g.pc := by cases reg <;> rfl

@[simp] theorem Regs.write8_sp (reg : Reg8) (v : Byte) : (g.write8 reg v).sp = g.sp := by cases reg <;> rfl

@[simp] theorem Regs.write8_ix (reg : Reg8) (v : Byte) : (g.write8 reg v).ix = g.ix := by cases reg <;> rfl

@[simp] theorem Regs.write8_iy (reg : Reg8) (v : Byte) : (g.write8 reg v).iy = g.iy := by cases reg <;> rfl

/-- A true 16-bit register is one that is no pair (10_state.md R16, R18). -/
theorem Regs.read16_write8_true {p : Reg16} (h : pairHalves p = none) (reg : Reg8) (v : Byte) :
    (g.write8 reg v).read16 p = g.read16 p := by
  cases p <;> simp [pairHalves] at h <;> simp [Regs.read16]

theorem Regs.read8_write16_true {p : Reg16} (h : pairHalves p = none) (v : Word) (reg : Reg8) :
    (g.write16 p v).read8 reg = g.read8 reg := by
  cases p <;> simp [pairHalves] at h <;> cases reg <;> rfl

@[simp] theorem Regs.read16_write16_same (p : Reg16) (v : Word) : (g.write16 p v).read16 p = v := by
  cases p <;> simp [Regs.read16, Regs.write16, Regs.write8]

/-- A pair's read is the view of its constituents (10_state.md R19). -/
theorem Regs.read16_pair {p : Reg16} {high low : Reg8} (h : pairHalves p = some (high, low)) :
    g.read16 p = pairValue (g.read8 high) (g.read8 low) := by
  cases p <;> simp [pairHalves] at h <;> obtain ⟨rfl, rfl⟩ := h <;> rfl

/-- A pair's write is the two writes of its constituents (10_state.md R20). -/
theorem Regs.write16_pair {p : Reg16} {high low : Reg8} (h : pairHalves p = some (high, low)) (v : Word) :
    g.write16 p v = (g.write8 high (pairHigh v)).write8 low (pairLow v) := by
  cases p <;> simp [pairHalves] at h <;> obtain ⟨rfl, rfl⟩ := h <;> rfl

/-- The two constituents of a pair are different registers (10_state.md R18). -/
theorem pairHalves_ne {p : Reg16} {high low : Reg8} (h : pairHalves p = some (high, low)) : high ≠ low := by
  cases p <;> simp [pairHalves] at h <;> obtain ⟨rfl, rfl⟩ := h <;> decide

/-! ### PC's advance -/

theorem Regs.advance_eq (n : Nat) : g.advance n = { g with pc := g.pc + BitVec.ofNat 16 n } := by
  simp [Regs.advance, Regs.write16, Regs.read16, BitVec.ofNat_add]

@[simp] theorem Regs.advance_pc (n : Nat) : (g.advance n).pc = g.pc + BitVec.ofNat 16 n := by rw [Regs.advance_eq]

@[simp] theorem Regs.advance_read8 (n : Nat) (reg : Reg8) : (g.advance n).read8 reg = g.read8 reg := by
  rw [Regs.advance_eq]
  cases reg <;> rfl

@[simp] theorem Regs.advance_read16 (n : Nat) {p : Reg16} (h : p ≠ .pc) : (g.advance n).read16 p = g.read16 p := by
  rw [Regs.advance_eq]
  cases p <;> first | rfl | exact absurd rfl h

@[simp] theorem Regs.advance_zero : g.advance 0 = g := by simp [Regs.advance_eq]

theorem Regs.advance_advance (m n : Nat) : (g.advance m).advance n = g.advance (m + n) := by
  simp [Regs.advance_eq, BitVec.ofNat_add, BitVec.add_assoc]

/-! ### The same on the state -/

variable (s : State)

theorem State.read8_write8 (reg reg' : Reg8) (v : Byte) :
    (s.write8 reg v).read8 reg' = if reg' = reg then v else s.read8 reg' := Regs.read8_write8 _ _ _ _

@[simp] theorem State.advance_zero : s.advance 0 = s := by simp [State.advance]

theorem State.advance_advance (m n : Nat) : (s.advance m).advance n = s.advance (m + n) := by
  simp [State.advance, Regs.advance_advance]

@[simp] theorem State.read16_pc : s.read16 .pc = s.regs.pc := rfl

end Sys2Proof.Machine
end

