-- ==== Sys2Proof/Laws/Exec.lean ====
section
/-! SUPPORT. What the shared operations can do, said once: memory accesses and fetches, the effects of the Load forms, and
everything an operation can do in its Exec tick (`Effect`). -/

namespace Sys2Proof.Machine

/-! ### Memory accesses and fetches -/

theorem State.memRead_eq (s : State) (M : MemId) (addr : Nat) :
    s.memRead M addr = if addr < (s.mem M).cap then .ok ((s.mem M).byteAt addr) else .error (.outOfBounds M addr 1) := by
  unfold State.memRead
  rw [Memory.get1_eq]
  split <;> simp_all

theorem State.memWrite_eq (s : State) (M : MemId) (addr : Nat) (v : Byte) :
    s.memWrite M addr v =
      if addr < (s.mem M).cap then .ok (s.setMem M ((s.mem M).setByte addr v)) else .error (.outOfBounds M addr 1) := by
  unfold State.memWrite
  rw [Memory.set1_eq]
  split <;> simp_all

/-- One fetch: the byte at PC and PC plus 1, or OutOfBounds (40_cycle.md R79, R80). -/
theorem fetchByte_eq (s : State) :
    fetchByte s = if s.regs.pc.toNat < s.imem.cap then .ok (s.imem.byteAt s.regs.pc.toNat, s.advance 1)
      else .error (.outOfBounds .imem s.regs.pc.toNat 1) := by
  unfold fetchByte
  rw [State.memRead_eq]
  by_cases h : s.regs.pc.toNat < s.imem.cap <;> simp [h]

theorem fetchByte_ok {s s1 : State} {b : Byte} (h : fetchByte s = .ok (b, s1)) :
    s.regs.pc.toNat < s.imem.cap ∧ b = s.imem.byteAt s.regs.pc.toNat ∧ s1 = s.advance 1 := by
  rw [fetchByte_eq] at h
  split at h
  · cases h; exact ⟨‹_›, rfl, rfl⟩
  · cases h

theorem fetchByte_error {s : State} {e : EngineError} (h : fetchByte s = .error e) :
    s.imem.cap ≤ s.regs.pc.toNat ∧ e = .outOfBounds .imem s.regs.pc.toNat 1 := by
  rw [fetchByte_eq] at h
  split at h
  · cases h
  · cases h; exact ⟨Nat.le_of_not_lt ‹_›, rfl⟩

/-- A complete trailing fetch advances PC by exactly the kind's bytes (40_cycle.md R84). -/
theorem fetchTrailing_ok {k : Kind} {s s1 : State} {t : Trailing} (h : fetchTrailing k s = .ok (t, s1)) :
    t.kind = k ∧ s1 = s.advance k.trailing := by
  unfold fetchTrailing at h
  split at h
  · cases h; exact ⟨rfl, by simp [Kind.trailing]⟩
  · split at h <;> cases h
    exact ⟨rfl, (fetchByte_ok ‹_›).2.2⟩
  · split at h <;> cases h
    exact ⟨rfl, (fetchByte_ok ‹_›).2.2⟩
  · split at h
    · rename_i h1
      split at h <;> cases h
      rename_i h2
      refine ⟨rfl, ?_⟩
      rw [(fetchByte_ok h2).2.2, (fetchByte_ok h1).2.2, State.advance_advance]
      rfl
    · cases h

/-- A failing trailing fetch is out of bounds at the PC it has reached, and keeps the advances made (40_cycle.md R85). -/
theorem fetchTrailing_error {k : Kind} {s s1 : State} {e : EngineError} (h : fetchTrailing k s = .error (e, s1)) :
    ∃ n, n < k.trailing ∧ s1 = s.advance n ∧ s.imem.cap ≤ s1.regs.pc.toNat ∧
      e = .outOfBounds .imem s1.regs.pc.toNat 1 := by
  unfold fetchTrailing at h
  split at h
  · cases h
  · split at h <;> cases h
    obtain ⟨le, rfl⟩ := fetchByte_error ‹_›
    exact ⟨0, by decide, by simp, le, rfl⟩
  · split at h <;> cases h
    obtain ⟨le, rfl⟩ := fetchByte_error ‹_›
    exact ⟨0, by decide, by simp, le, rfl⟩
  · split at h
    · rename_i h1
      split at h <;> cases h
      rename_i h2
      obtain ⟨-, -, rfl⟩ := fetchByte_ok h1
      obtain ⟨le, rfl⟩ := fetchByte_error h2
      exact ⟨1, by decide, rfl, le, rfl⟩
    · cases h
      obtain ⟨le, rfl⟩ := fetchByte_error ‹_›
      exact ⟨0, by decide, by simp, le, rfl⟩

/-! ### The effects of the Load forms -/

theorem loadRegMem_in {s : State} {dst : Reg8} {ea : Word} (h : ea.toNat < s.dmem.cap) :
    loadRegMem dst ea s = complete (s.write8 dst (s.dmem.byteAt ea.toNat)) := by
  simp [loadRegMem, State.memRead_eq, h]

theorem loadRegMem_out {s : State} {dst : Reg8} {ea : Word} (h : s.dmem.cap ≤ ea.toNat) :
    loadRegMem dst ea s = raise (.outOfBounds .dmem ea.toNat 1) s := by
  simp [loadRegMem, State.memRead_eq, Nat.not_lt.mpr h]

theorem storeMemReg_in {s : State} {src : Reg8} {ea : Word} (h : ea.toNat < s.dmem.cap) :
    storeMemReg ea src s = complete (s.setMem .dmem (s.dmem.setByte ea.toNat (s.read8 src))) := by
  simp [storeMemReg, State.memWrite_eq, h]

theorem storeMemReg_out {s : State} {src : Reg8} {ea : Word} (h : s.dmem.cap ≤ ea.toNat) :
    storeMemReg ea src s = raise (.outOfBounds .dmem ea.toNat 1) s := by
  simp [storeMemReg, State.memWrite_eq, Nat.not_lt.mpr h]

/-! ### Everything an operation can do -/

/-- Everything an operation can do in its Exec tick, after the trailing fetch (40_cycle.md R86, 41_operands.md R103): one
effect or one error. -/
inductive Effect (op : Operation) (s : State) : State → Prop where
  | nothing : op = .nop → Effect op s s.completed
  | reg8 (dst : Reg8) (src : Operand) (v : Byte) : op = .load (.r8 dst) src → Effect op s (s.write8 dst v).completed
  | reg16 (dst : Reg16) (v : Word) : op = .load (.r16 dst) .imm16 → Effect op s (s.write16 dst v).completed
  | store (a : Operand) (src : Reg8) (ea : Word) : op = .load (.mem a) (.r8 src) → ea.toNat < s.dmem.cap →
      Effect op s (s.setMem .dmem (s.dmem.setByte ea.toNat (s.read8 src))).completed
  | unsupported : op ≠ .nop → Effect op s (s.aborted .unsupportedOperandForm)
  | registerNotFound (dst src : Operand) : op = .load dst src → (dst.selectorsValid && src.selectorsValid) = false →
      Effect op s (s.aborted .registerNotFound)
  | dataOutOfBounds (ea : Word) : s.dmem.cap ≤ ea.toNat → Effect op s (s.aborted (.outOfBounds .dmem ea.toNat 1))

theorem effect_of_loadRegMem (s : State) (dst : Reg8) (src : Operand) (ea : Word) :
    ∃ t, loadRegMem dst ea s = .next t ∧ Effect (.load (.r8 dst) src) s t := by
  rcases Nat.lt_or_ge ea.toNat s.dmem.cap with h | h
  · exact ⟨_, loadRegMem_in h, .reg8 dst src _ rfl⟩
  · exact ⟨_, loadRegMem_out h, .dataOutOfBounds ea h⟩

theorem effect_of_storeMemReg (s : State) (a : Operand) (src : Reg8) (ea : Word) :
    ∃ t, storeMemReg ea src s = .next t ∧ Effect (.load (.mem a) (.r8 src)) s t := by
  rcases Nat.lt_or_ge ea.toNat s.dmem.cap with h | h
  · exact ⟨_, storeMemReg_in h, .store a src ea rfl h⟩
  · exact ⟨_, storeMemReg_out h, .dataOutOfBounds ea h⟩

/-- A row's meaning answers a next state, which is one of the effects of the row's operation. -/
theorem exec_effect (i : Instr) (s : State) : ∃ t, exec i s = .next t ∧ Effect i.template.operation s t := by
  cases i <;> first
    | exact ⟨_, rfl, .nothing rfl⟩
    | exact ⟨_, rfl, .reg8 _ _ _ rfl⟩
    | exact ⟨_, rfl, .reg16 _ _ rfl⟩
    | exact ⟨_, rfl, .unsupported (by simp [Instr.template])⟩
    | exact effect_of_loadRegMem s _ _ _
    | exact effect_of_storeMemReg s _ _ _

/-- A Load form performed answers a next state, which is one of the effects of its operation. -/
theorem applyLoad_effect (t : Trailing) (dst src : Operand) (s : State) :
    ∃ s', applyLoad t dst src s = .next s' ∧ Effect (.load dst src) s s' := by
  unfold applyLoad
  split
  · rename_i form hform
    unfold loadForm at hform
    split at hform
    · cases hform
      rename_i d r
      cases d <;> cases r
      · exact ⟨_, rfl, .reg8 _ _ _ rfl⟩
      · exact ⟨_, rfl, .registerNotFound _ _ rfl rfl⟩
      · exact ⟨_, rfl, .registerNotFound _ _ rfl rfl⟩
      · exact ⟨_, rfl, .registerNotFound _ _ rfl rfl⟩
    · cases hform
      rename_i d b
      cases d
      · exact ⟨_, rfl, .reg8 _ _ _ rfl⟩
      · exact ⟨_, rfl, .registerNotFound _ _ rfl rfl⟩
    · cases hform
      rename_i p first second
      cases p
      · exact ⟨_, rfl, .reg16 _ _ rfl⟩
      · exact ⟨_, rfl, .registerNotFound _ _ rfl rfl⟩
    · rename_i d a
      simp only [Option.map_eq_some_iff] at hform
      obtain ⟨ea, -, rfl⟩ := hform
      cases d
      · exact effect_of_loadRegMem s _ _ ea
      · exact ⟨_, rfl, .registerNotFound _ _ rfl rfl⟩
    · rename_i a r
      simp only [Option.map_eq_some_iff] at hform
      obtain ⟨ea, -, rfl⟩ := hform
      cases r
      · exact effect_of_storeMemReg s _ _ ea
      · exact ⟨_, rfl, .registerNotFound _ _ rfl (by simp [Operand.selectorsValid, Sel8.valid])⟩
    · cases hform
  · exact ⟨_, rfl, .unsupported (by simp)⟩

/-- Any operation applied answers a next state, which is one of its effects. -/
theorem applyOperation_effect (op : Operation) (t : Trailing) (s : State) :
    ∃ s', applyOperation op t s = .next s' ∧ Effect op s s' := by
  cases op with
  | nop => exact ⟨_, rfl, .nothing rfl⟩
  | load dst src => exact applyLoad_effect t dst src s
  | add lhs rhs => exact ⟨_, rfl, .unsupported (by simp)⟩

/-- The same of what the Exec tick applies, be it a row of REF_TABLE or another entry. -/
theorem applyFetched_effect (op : Operation) (t : Trailing) (s : State) :
    ∃ s', applyFetched op t s = .next s' ∧ Effect op s s' := by
  unfold applyFetched
  split
  · rename_i i hi
    obtain ⟨s', hs, he⟩ := exec_effect i s
    rw [(Instr.ofFetched_eq_some hi).1] at he
    exact ⟨s', hs, he⟩
  · exact applyOperation_effect op t s

end Sys2Proof.Machine
end

