-- ==== Sys2Proof/Laws/PerInstr.lean ====
section
/-! SUPPORT. The per-instruction family `Fetched`: the Instruction value and the trailing bytes of each row are of one
kind, and together they determine the row (30_encoding.md R63, R69). -/

namespace Sys2Proof.Laws.Fetched

/-- The row's bytes are of its kind, and its operation with its bytes is the row. -/
def Statement (i : Instr) : Prop :=
  i.trailing.kind = i.template.kind ∧ Instr.ofFetched i.template.operation i.trailing = some i

theorem nop : Statement .nop := ⟨rfl, rfl⟩
theorem ld_BC_nn (nn : Word) : Statement (.ld_BC_nn nn) :=
  ⟨rfl, by simp [Instr.template, Instr.trailing, Instr.ofFetched, loadRow, ldPairImmRow]⟩
theorem ld_atBC_A : Statement .ld_atBC_A := ⟨rfl, rfl⟩
theorem ld_B_n (n : Byte) : Statement (.ld_B_n n) := ⟨rfl, rfl⟩
theorem add_HL_BC : Statement .add_HL_BC := ⟨rfl, rfl⟩
theorem ld_A_atBC : Statement .ld_A_atBC := ⟨rfl, rfl⟩
theorem ld_C_n (n : Byte) : Statement (.ld_C_n n) := ⟨rfl, rfl⟩
theorem ld_DE_nn (nn : Word) : Statement (.ld_DE_nn nn) :=
  ⟨rfl, by simp [Instr.template, Instr.trailing, Instr.ofFetched, loadRow, ldPairImmRow]⟩
theorem ld_atDE_A : Statement .ld_atDE_A := ⟨rfl, rfl⟩
theorem ld_D_n (n : Byte) : Statement (.ld_D_n n) := ⟨rfl, rfl⟩
theorem add_HL_DE : Statement .add_HL_DE := ⟨rfl, rfl⟩
theorem ld_A_atDE : Statement .ld_A_atDE := ⟨rfl, rfl⟩
theorem ld_E_n (n : Byte) : Statement (.ld_E_n n) := ⟨rfl, rfl⟩
theorem ld_HL_nn (nn : Word) : Statement (.ld_HL_nn nn) :=
  ⟨rfl, by simp [Instr.template, Instr.trailing, Instr.ofFetched, loadRow, ldPairImmRow]⟩
theorem ld_atNN_HL (nn : Word) : Statement (.ld_atNN_HL nn) :=
  ⟨rfl, by simp [Instr.template, Instr.trailing, Instr.ofFetched, loadRow]⟩
theorem ld_H_n (n : Byte) : Statement (.ld_H_n n) := ⟨rfl, rfl⟩
theorem add_HL_HL : Statement .add_HL_HL := ⟨rfl, rfl⟩
theorem ld_HL_atNN (nn : Word) : Statement (.ld_HL_atNN nn) :=
  ⟨rfl, by simp [Instr.template, Instr.trailing, Instr.ofFetched, loadRow]⟩
theorem ld_L_n (n : Byte) : Statement (.ld_L_n n) := ⟨rfl, rfl⟩
theorem ld_SP_nn (nn : Word) : Statement (.ld_SP_nn nn) :=
  ⟨rfl, by simp [Instr.template, Instr.trailing, Instr.ofFetched, loadRow, ldPairImmRow]⟩
theorem ld_atNN_A (nn : Word) : Statement (.ld_atNN_A nn) :=
  ⟨rfl, by simp [Instr.template, Instr.trailing, Instr.ofFetched, loadRow]⟩
theorem ld_atHL_n (n : Byte) : Statement (.ld_atHL_n n) := ⟨rfl, rfl⟩
theorem add_HL_SP : Statement .add_HL_SP := ⟨rfl, rfl⟩
theorem ld_A_atNN (nn : Word) : Statement (.ld_A_atNN nn) :=
  ⟨rfl, by simp [Instr.template, Instr.trailing, Instr.ofFetched, loadRow]⟩
theorem ld_A_n (n : Byte) : Statement (.ld_A_n n) := ⟨rfl, rfl⟩
theorem ld_B_B : Statement .ld_B_B := ⟨rfl, rfl⟩
theorem ld_B_C : Statement .ld_B_C := ⟨rfl, rfl⟩
theorem ld_B_D : Statement .ld_B_D := ⟨rfl, rfl⟩
theorem ld_B_E : Statement .ld_B_E := ⟨rfl, rfl⟩
theorem ld_B_H : Statement .ld_B_H := ⟨rfl, rfl⟩
theorem ld_B_L : Statement .ld_B_L := ⟨rfl, rfl⟩
theorem ld_B_atHL : Statement .ld_B_atHL := ⟨rfl, rfl⟩
theorem ld_B_A : Statement .ld_B_A := ⟨rfl, rfl⟩
theorem ld_C_B : Statement .ld_C_B := ⟨rfl, rfl⟩
theorem ld_C_C : Statement .ld_C_C := ⟨rfl, rfl⟩
theorem ld_C_D : Statement .ld_C_D := ⟨rfl, rfl⟩
theorem ld_C_E : Statement .ld_C_E := ⟨rfl, rfl⟩
theorem ld_C_H : Statement .ld_C_H := ⟨rfl, rfl⟩
theorem ld_C_L : Statement .ld_C_L := ⟨rfl, rfl⟩
theorem ld_C_atHL : Statement .ld_C_atHL := ⟨rfl, rfl⟩
theorem ld_C_A : Statement .ld_C_A := ⟨rfl, rfl⟩
theorem ld_D_B : Statement .ld_D_B := ⟨rfl, rfl⟩
theorem ld_D_C : Statement .ld_D_C := ⟨rfl, rfl⟩
theorem ld_D_D : Statement .ld_D_D := ⟨rfl, rfl⟩
theorem ld_D_E : Statement .ld_D_E := ⟨rfl, rfl⟩
theorem ld_D_H : Statement .ld_D_H := ⟨rfl, rfl⟩
theorem ld_D_L : Statement .ld_D_L := ⟨rfl, rfl⟩
theorem ld_D_atHL : Statement .ld_D_atHL := ⟨rfl, rfl⟩
theorem ld_D_A : Statement .ld_D_A := ⟨rfl, rfl⟩
theorem ld_E_B : Statement .ld_E_B := ⟨rfl, rfl⟩
theorem ld_E_C : Statement .ld_E_C := ⟨rfl, rfl⟩
theorem ld_E_D : Statement .ld_E_D := ⟨rfl, rfl⟩
theorem ld_E_E : Statement .ld_E_E := ⟨rfl, rfl⟩
theorem ld_E_H : Statement .ld_E_H := ⟨rfl, rfl⟩
theorem ld_E_L : Statement .ld_E_L := ⟨rfl, rfl⟩
theorem ld_E_atHL : Statement .ld_E_atHL := ⟨rfl, rfl⟩
theorem ld_E_A : Statement .ld_E_A := ⟨rfl, rfl⟩
theorem ld_H_B : Statement .ld_H_B := ⟨rfl, rfl⟩
theorem ld_H_C : Statement .ld_H_C := ⟨rfl, rfl⟩
theorem ld_H_D : Statement .ld_H_D := ⟨rfl, rfl⟩
theorem ld_H_E : Statement .ld_H_E := ⟨rfl, rfl⟩
theorem ld_H_H : Statement .ld_H_H := ⟨rfl, rfl⟩
theorem ld_H_L : Statement .ld_H_L := ⟨rfl, rfl⟩
theorem ld_H_atHL : Statement .ld_H_atHL := ⟨rfl, rfl⟩
theorem ld_H_A : Statement .ld_H_A := ⟨rfl, rfl⟩
theorem ld_L_B : Statement .ld_L_B := ⟨rfl, rfl⟩
theorem ld_L_C : Statement .ld_L_C := ⟨rfl, rfl⟩
theorem ld_L_D : Statement .ld_L_D := ⟨rfl, rfl⟩
theorem ld_L_E : Statement .ld_L_E := ⟨rfl, rfl⟩
theorem ld_L_H : Statement .ld_L_H := ⟨rfl, rfl⟩
theorem ld_L_L : Statement .ld_L_L := ⟨rfl, rfl⟩
theorem ld_L_atHL : Statement .ld_L_atHL := ⟨rfl, rfl⟩
theorem ld_L_A : Statement .ld_L_A := ⟨rfl, rfl⟩
theorem ld_atHL_B : Statement .ld_atHL_B := ⟨rfl, rfl⟩
theorem ld_atHL_C : Statement .ld_atHL_C := ⟨rfl, rfl⟩
theorem ld_atHL_D : Statement .ld_atHL_D := ⟨rfl, rfl⟩
theorem ld_atHL_E : Statement .ld_atHL_E := ⟨rfl, rfl⟩
theorem ld_atHL_H : Statement .ld_atHL_H := ⟨rfl, rfl⟩
theorem ld_atHL_L : Statement .ld_atHL_L := ⟨rfl, rfl⟩
theorem ld_atHL_A : Statement .ld_atHL_A := ⟨rfl, rfl⟩
theorem ld_A_B : Statement .ld_A_B := ⟨rfl, rfl⟩
theorem ld_A_C : Statement .ld_A_C := ⟨rfl, rfl⟩
theorem ld_A_D : Statement .ld_A_D := ⟨rfl, rfl⟩
theorem ld_A_E : Statement .ld_A_E := ⟨rfl, rfl⟩
theorem ld_A_H : Statement .ld_A_H := ⟨rfl, rfl⟩
theorem ld_A_L : Statement .ld_A_L := ⟨rfl, rfl⟩
theorem ld_A_atHL : Statement .ld_A_atHL := ⟨rfl, rfl⟩
theorem ld_A_A : Statement .ld_A_A := ⟨rfl, rfl⟩
theorem add_A_B : Statement .add_A_B := ⟨rfl, rfl⟩
theorem add_A_C : Statement .add_A_C := ⟨rfl, rfl⟩
theorem add_A_D : Statement .add_A_D := ⟨rfl, rfl⟩
theorem add_A_E : Statement .add_A_E := ⟨rfl, rfl⟩
theorem add_A_H : Statement .add_A_H := ⟨rfl, rfl⟩
theorem add_A_L : Statement .add_A_L := ⟨rfl, rfl⟩
theorem add_A_atHL : Statement .add_A_atHL := ⟨rfl, rfl⟩
theorem add_A_A : Statement .add_A_A := ⟨rfl, rfl⟩
theorem add_A_n (n : Byte) : Statement (.add_A_n n) := ⟨rfl, rfl⟩
theorem ld_SP_HL : Statement .ld_SP_HL := ⟨rfl, rfl⟩

/-- The family holds of every row. -/
theorem all (i : Instr) : Statement i := by
  cases i
  · exact nop
  · exact ld_B_B
  · exact ld_B_C
  · exact ld_B_D
  · exact ld_B_E
  · exact ld_B_H
  · exact ld_B_L
  · exact ld_B_A
  · exact ld_C_B
  · exact ld_C_C
  · exact ld_C_D
  · exact ld_C_E
  · exact ld_C_H
  · exact ld_C_L
  · exact ld_C_A
  · exact ld_D_B
  · exact ld_D_C
  · exact ld_D_D
  · exact ld_D_E
  · exact ld_D_H
  · exact ld_D_L
  · exact ld_D_A
  · exact ld_E_B
  · exact ld_E_C
  · exact ld_E_D
  · exact ld_E_E
  · exact ld_E_H
  · exact ld_E_L
  · exact ld_E_A
  · exact ld_H_B
  · exact ld_H_C
  · exact ld_H_D
  · exact ld_H_E
  · exact ld_H_H
  · exact ld_H_L
  · exact ld_H_A
  · exact ld_L_B
  · exact ld_L_C
  · exact ld_L_D
  · exact ld_L_E
  · exact ld_L_H
  · exact ld_L_L
  · exact ld_L_A
  · exact ld_A_B
  · exact ld_A_C
  · exact ld_A_D
  · exact ld_A_E
  · exact ld_A_H
  · exact ld_A_L
  · exact ld_A_A
  · exact ld_B_atHL
  · exact ld_C_atHL
  · exact ld_D_atHL
  · exact ld_E_atHL
  · exact ld_H_atHL
  · exact ld_L_atHL
  · exact ld_A_atHL
  · exact ld_atHL_B
  · exact ld_atHL_C
  · exact ld_atHL_D
  · exact ld_atHL_E
  · exact ld_atHL_H
  · exact ld_atHL_L
  · exact ld_atHL_A
  · exact ld_B_n _
  · exact ld_C_n _
  · exact ld_D_n _
  · exact ld_E_n _
  · exact ld_H_n _
  · exact ld_L_n _
  · exact ld_A_n _
  · exact ld_atHL_n _
  · exact ld_atBC_A
  · exact ld_A_atBC
  · exact ld_atDE_A
  · exact ld_A_atDE
  · exact ld_atNN_A _
  · exact ld_A_atNN _
  · exact ld_BC_nn _
  · exact ld_DE_nn _
  · exact ld_HL_nn _
  · exact ld_SP_nn _
  · exact ld_atNN_HL _
  · exact ld_HL_atNN _
  · exact ld_SP_HL
  · exact add_A_B
  · exact add_A_C
  · exact add_A_D
  · exact add_A_E
  · exact add_A_H
  · exact add_A_L
  · exact add_A_atHL
  · exact add_A_A
  · exact add_A_n _
  · exact add_HL_BC
  · exact add_HL_DE
  · exact add_HL_HL
  · exact add_HL_SP

end Sys2Proof.Laws.Fetched
end

