-- ==== Sys2Proof/Laws/Step.lean ====
section
/-! SUPPORT. What one step can do, said once per stage (spec/40_cycle.md): every case of `step` answering a next state, and
exactly when it answers none. -/

namespace Sys2Proof.Machine

variable {s t : State}

theorem step_fetch (h : s.stage = .fetch) : step s = tickFetch s := by simp [step, tick, h]

theorem step_decode (h : s.stage = .decode) : step s = tickDecode s := by simp [step, tick, h]

theorem step_exec (h : s.stage = .exec) : step s = tickExec s := by simp [step, tick, h]

theorem step_writeback (h : s.stage = .writeback) : step s = tickWriteback s := by simp [step, tick, h]

/-- The state a successful Fetch leaves (40_cycle.md R79). -/
def State.fetched (s : State) : State :=
  { s.advance 1 with
    pending := some (s.imem.byteAt s.regs.pc.toNat)
    stage := .decode
    lastResult := some .ok }

theorem tickFetch_in (h : s.regs.pc.toNat < s.imem.cap) : tickFetch s = .next s.fetched := by
  simp [tickFetch, fetchByte_eq, h, State.fetched]

theorem tickFetch_out (h : s.imem.cap ≤ s.regs.pc.toNat) :
    tickFetch s = .next (s.aborted (.outOfBounds .imem s.regs.pc.toNat 1)) := by
  simp [tickFetch, fetchByte_eq, Nat.not_lt.mpr h, raise]

/-- Everything a step that answers a next state did, stage by stage. -/
inductive StepCase (s : State) : State → Prop where
  | fetched : s.stage = .fetch → s.regs.pc.toNat < s.imem.cap → StepCase s s.fetched
  | fetchOutOfBounds : s.stage = .fetch → s.imem.cap ≤ s.regs.pc.toNat →
      StepCase s (s.aborted (.outOfBounds .imem s.regs.pc.toNat 1))
  | hit (b : Byte) (v : Instruction) : s.stage = .decode → s.pending = some b → DecodeTable.lookup s.table b = some v →
      StepCase s (decodeHit v s)
  | miss (b : Byte) : s.stage = .decode → s.pending = some b → DecodeTable.lookup s.table b = none →
      StepCase s (decodeMiss b s)
  | trailingOutOfBounds (v : Instruction) (n : Nat) : s.stage = .exec → s.current = some v → n < v.kind.trailing →
      s.imem.cap ≤ (s.advance n).regs.pc.toNat →
      StepCase s ((s.advance n).aborted (.outOfBounds .imem (s.advance n).regs.pc.toNat 1))
  | applied (v : Instruction) (t : State) : s.stage = .exec → s.current = some v →
      Effect v.operation (s.advance v.kind.trailing) t → StepCase s t
  | writeback : s.stage = .writeback → StepCase s { s with stage := .fetch, lastResult := some .ok }

theorem step_cases (h : step s = .next t) : StepCase s t := by
  rcases hs : s.stage with _ | _ | _ | _
  · rw [step_fetch hs] at h
    rcases Nat.lt_or_ge s.regs.pc.toNat s.imem.cap with hpc | hpc
    · rw [tickFetch_in hpc] at h
      cases h
      exact .fetched hs hpc
    · rw [tickFetch_out hpc] at h
      cases h
      exact .fetchOutOfBounds hs hpc
  · rw [step_decode hs] at h
    unfold tickDecode at h
    split at h
    · cases h
    · split at h <;> cases h
      · exact .hit _ _ hs ‹_› ‹_›
      · exact .miss _ hs ‹_› ‹_›
  · rw [step_exec hs] at h
    unfold tickExec at h
    split at h
    · cases h
    · rename_i v hv
      split at h
      · rename_i tr s1 hf
        obtain ⟨-, rfl⟩ := fetchTrailing_ok hf
        obtain ⟨s', h', he⟩ := applyFetched_effect v.operation tr (s.advance v.kind.trailing)
        rw [h'] at h
        cases h
        exact .applied v _ hs hv he
      · rename_i e s1 hf
        obtain ⟨n, hn, rfl, hpc, rfl⟩ := fetchTrailing_error hf
        cases h
        exact .trailingOutOfBounds v n hs hv hn hpc
  · rw [step_writeback hs] at h
    cases h
    exact .writeback hs

/-- A step answers a next state unless Decode finds nothing pending or Exec nothing current (40_cycle.md R82, R87). -/
theorem step_answers_next (hd : s.stage = .decode → s.pending ≠ none) (he : s.stage = .exec → s.current ≠ none) :
    ∃ t, step s = .next t := by
  rcases hs : s.stage with _ | _ | _ | _
  · rw [step_fetch hs]
    rcases Nat.lt_or_ge s.regs.pc.toNat s.imem.cap with hpc | hpc
    · exact ⟨_, tickFetch_in hpc⟩
    · exact ⟨_, tickFetch_out hpc⟩
  · rw [step_decode hs]
    obtain ⟨b, hb⟩ := Option.ne_none_iff_exists'.mp (hd hs)
    unfold tickDecode
    simp only [hb]
    split <;> exact ⟨_, rfl⟩
  · rw [step_exec hs]
    obtain ⟨v, hv⟩ := Option.ne_none_iff_exists'.mp (he hs)
    unfold tickExec
    simp only [hv]
    split
    · exact (applyFetched_effect v.operation _ _).imp fun _ h => h.1
    · exact ⟨_, rfl⟩
  · rw [step_writeback hs]
    exact ⟨_, rfl⟩

end Sys2Proof.Machine
end

