-- ==== Sys2Proof/Laws/Run.lean ====
section
/-! SUPPORT. Fetching bytes that memory holds at PC, and runs of several steps, said once. -/

namespace Sys2Proof.Machine

/-! ### Fetching what memory holds -/

theorem Memory.get1_eq_some {m : Memory} {addr : Nat} {b : Byte} (h : m.get1 addr = some b) :
    addr < m.cap ∧ m.byteAt addr = b := by
  rw [Memory.get1_eq] at h
  split at h <;> simp_all

/-- The byte held at PC is fetched, and the rest of the bytes are held at the new PC. -/
theorem fetchByte_of_holds {s : State} {b : Byte} {rest : List Byte} (h : s.imem.Holds s.regs.pc (b :: rest)) :
    fetchByte s = .ok (b, s.advance 1) ∧ (s.advance 1).imem.Holds (s.advance 1).regs.pc rest := by
  obtain ⟨first, others⟩ := h
  obtain ⟨lt, eq⟩ := Memory.get1_eq_some first
  refine ⟨by rw [fetchByte_eq]; simp [lt, eq], ?_⟩
  simpa [Regs.advance_eq, State.advance] using others

/-- The trailing bytes held at PC are fetched, and PC moves past them. -/
theorem fetchTrailing_of_holds {s : State} {t : Trailing} (h : s.imem.Holds s.regs.pc t.bytes) :
    fetchTrailing t.kind s = .ok (t, s.advance t.kind.trailing) := by
  cases t with
  | noOperand => simp [fetchTrailing, Trailing.kind, Kind.trailing]
  | n b => simp [fetchTrailing, Trailing.kind, Kind.trailing, (fetchByte_of_holds h).1]
  | displacement d => simp [fetchTrailing, Trailing.kind, Kind.trailing, (fetchByte_of_holds h).1]
  | nn first second =>
    obtain ⟨h1, h2⟩ := fetchByte_of_holds h
    simp [fetchTrailing, Trailing.kind, Kind.trailing, h1, (fetchByte_of_holds h2).1, State.advance_advance]

/-- As many bytes as a kind declares are the bytes of some trailing value of that kind. -/
theorem exists_trailing {k : Kind} {bytes : List Byte} (h : bytes.length = k.trailing) :
    ∃ t : Trailing, t.kind = k ∧ t.bytes = bytes := by
  cases k <;> simp only [Kind.trailing] at h
  · exact ⟨.noOperand, rfl, (List.length_eq_zero_iff.mp h).symm⟩
  · obtain ⟨b, rfl⟩ := List.length_eq_one_iff.mp h
    exact ⟨.n b, rfl, rfl⟩
  · obtain ⟨a, b, rfl⟩ := List.length_eq_two.mp h
    exact ⟨.nn a b, rfl, rfl⟩
  · obtain ⟨b, rfl⟩ := List.length_eq_one_iff.mp h
    exact ⟨.displacement b, rfl, rfl⟩

/-- The Exec tick of an instruction whose trailing bytes memory holds at PC. -/
theorem tickExec_of_holds {s : State} {v : Instruction} {t : Trailing} (hv : s.current = some v) (hk : t.kind = v.kind)
    (h : s.imem.Holds s.regs.pc t.bytes) : tickExec s = applyFetched v.operation t (s.advance t.kind.trailing) := by
  simp only [tickExec, hv, ← hk, fetchTrailing_of_holds h]

/-! ### Runs -/

/-- `ticks` is the host's run of the machine. -/
theorem run_core_eq_ticks (n : Nat) (s : State) : Host.Core.run Sys2Proof.core n s = ticks n s := by
  induction n generalizing s with
  | zero => rfl
  | succ n ih =>
    unfold ticks
    cases hs : step s with
    | next t =>
      have hs' : Sys2Proof.core.step s = .next t := hs
      simp only [Host.Core.run, hs']
      exact ih t
    | fault r => nomatch r
    | refused r =>
      have hs' : Sys2Proof.core.step s = .refused r := hs
      simp only [Host.Core.run, hs']
      rfl

@[simp] theorem ticks_zero (s : State) : ticks 0 s = .next s := rfl

/-- A run whose first step answers a next state goes on from there. -/
theorem ticks_of_step {s t : State} (h : step s = .next t) (n : Nat) : ticks (n + 1) s = ticks n t := by
  simp only [ticks, h]

/-- One more step after a run that answers a next state. -/
theorem ticks_then_step {n : Nat} {s t : State} (h : ticks n s = .next t) : ticks (n + 1) s = step t := by
  induction n generalizing s with
  | zero =>
    cases h
    unfold ticks
    rcases step t with _ | r | _
    · rfl
    · nomatch r
    · rfl
  | succ n ih =>
    unfold ticks at h ⊢
    cases hs : step s with
    | next a =>
      rw [hs] at h
      exact ih h
    | fault r => nomatch r
    | refused r =>
      rw [hs] at h
      cases h

/-! ### The Fetch and Decode ticks together -/

theorem step_fetched {s : State} (hs : s.stage = .fetch) (h : s.regs.pc.toNat < s.imem.cap) :
    step s = .next s.fetched := (step_fetch hs).trans (tickFetch_in h)

theorem step_decodeHit {s : State} {b : Byte} {v : Instruction} (hs : s.stage = .decode) (hb : s.pending = some b)
    (hv : DecodeTable.lookup s.table b = some v) : step s = .next (decodeHit v s) := by
  simp [step_decode hs, tickDecode, hb, hv]

theorem step_decodeMiss {s : State} {b : Byte} (hs : s.stage = .decode) (hb : s.pending = some b)
    (hv : DecodeTable.lookup s.table b = none) : step s = .next (decodeMiss b s) := by
  simp [step_decode hs, tickDecode, hb, hv]

/-- The Fetch and Decode ticks of an opcode byte that has an entry. -/
theorem ticks_fetch_hit {s : State} {b : Byte} {v : Instruction} (hs : s.stage = .fetch)
    (hb : s.imem.get1 s.regs.pc.toNat = some b) (hv : DecodeTable.lookup s.table b = some v) (n : Nat) :
    ticks (n + 2) s = ticks n (decodeHit v s.fetched) := by
  obtain ⟨lt, rfl⟩ := Memory.get1_eq_some hb
  rw [ticks_of_step (step_fetched hs lt), ticks_of_step (step_decodeHit (s := s.fetched) rfl rfl hv)]

/-- The Fetch and Decode ticks of an opcode byte that has no entry. -/
theorem ticks_fetch_miss {s : State} {b : Byte} (hs : s.stage = .fetch) (hb : s.imem.get1 s.regs.pc.toNat = some b)
    (hv : DecodeTable.lookup s.table b = none) (n : Nat) :
    ticks (n + 2) s = ticks n (decodeMiss b s.fetched) := by
  obtain ⟨lt, rfl⟩ := Memory.get1_eq_some hb
  rw [ticks_of_step (step_fetched hs lt), ticks_of_step (step_decodeMiss (s := s.fetched) rfl rfl hv)]

end Sys2Proof.Machine
end

