-- ==== Sys2Proof/Tests/Slice0.lean ====
section
/-! SUPPORT. Tests of single steps and single calls, each with the source of its expected value (a vector V<n> or worked
example T<n> of spec/95_test_vectors.md, or a rule), and for each obligation with hypotheses a witness that meets them. -/

namespace Sys2Proof.Tests

open Sys2Proof.Machine Sys2Proof.Claims

/-! ### Helpers -/

/-- A register file of zeros. -/
def regs0 : Regs := ⟨0, 0, 0, 0, 0, 0, 0, 0, 0, 0, 0, 0, 0, 0⟩

/-- A construction with REF_TABLE, both capacities `cap`, nothing placed in instruction memory, and these cells of data
memory; it starts at the register file's PC. -/
def mk (g : Regs) (cap : Nat := 131072) (dmem : List Host.Cell := []) : State :=
  State.construct ⟨g.pc, g, ⟨cap, []⟩, ⟨cap, dmem⟩, refTable⟩

/-- The state with bytes placed in instruction memory. -/
def code (s : State) (cells : List Host.Cell) : State := { s with imem := ⟨s.imem.cap, cells⟩ }

/-- The state at stage Exec with this current instruction. -/
def atExec (s : State) (v : Instruction) : State := { s with stage := .exec, current := some v }

/-- The state with one entry of its table replaced. -/
def entry (s : State) (b : Byte) (v : Instruction) : State := { s with table := DecodeTable.place s.table b (some v) }

/-- The state after one step that answers a next state. -/
def after (s : State) : State := Answer.nextOr (step s) s

/-- The state after the Exec step of an opcode-table word placed at PC. -/
def ran (s : State) (nbits w : Nat) : State := after (s.withFetchWord nbits w)

/-- The last tick's answer is this error. -/
def erred (s : State) (e : EngineError) : Bool := s.lastResult == some (.err e) && s.stage == .fetch

/-- The answer is the refusal for a violated invariant, leaving stage Fetch. -/
def isEmptyOpcode (a : Answer) : Bool :=
  match a with
  | .next _ => false
  | .fault _ => false
  | .refused (.emptyOpcode t) => erred t .emptyOpcode
  | .refused _ => false

/-! ### Well-formedness: each check refuses an ill-formed term (41_operands.md R101, R102; 10_state.md R23) -/

theorem test_wf_kind_mismatch :
    (Operand.r8 .a).admittedLoad .n (.r8 .b) = false ∧ (Operand.r8 .a).admittedLoad .noOperand .imm8 = false ∧
    (Operand.r16 .sp).admittedLoad .n .imm16 = false := by decide

theorem test_wf_address_kind :
    (Operand.r16 .ix).hasAddress .noOperand = false ∧ (Operand.r16 .hl).hasAddress .n = false ∧
    Operand.imm16.hasAddress .displacement = false := by decide

theorem test_wf_no_address :
    (Operand.r8 .a).hasAddress .noOperand = false ∧ Operand.imm8.hasAddress .n = false ∧
    (Operand.mem .imm16).hasAddress .nn = false ∧ (Operand.reg16 (.raw 8)).hasAddress .noOperand = false := by decide

theorem test_wf_unadmitted_pairs :
    (Operand.r16 .sp).admittedLoad .noOperand (.r16 .hl) = false ∧
    (Operand.mem (.r16 .hl)).admittedLoad .n .imm8 = false ∧
    (Operand.mem .imm16).admittedLoad .nn (.r16 .hl) = false ∧
    (Operand.mem (.r16 .hl)).admittedLoad .noOperand (.mem (.r16 .bc)) = false ∧
    Operand.imm8.admittedLoad .n (.r8 .a) = false := by decide

theorem test_wf_selectors :
    (Operand.reg (.raw 10)).selectorsValid = false ∧ (Operand.reg16 (.raw 8)).selectorsValid = false ∧
    (Operand.mem (.reg16 (.raw 8))).selectorsValid = false := by decide

theorem test_wf_instruction :
    Instruction.wf ⟨.noOperand, .load (.r16 .sp) (.r16 .hl)⟩ = false ∧
    Instruction.wf ⟨.noOperand, .load (.reg (.raw 10)) (.r8 .a)⟩ = false ∧
    Instruction.wf ⟨.noOperand, .load (.r8 .b) (.r8 .a)⟩ = true := by decide

/-- REF_TABLE holds the five loads with no defined semantics (43_load8.md R112, 44_load16.md R124 to R126), so it fails the
check on Loads; its selectors are all valid, and one raw selector is refused. -/
theorem test_wf_table :
    DecodeTable.loadsAdmitted refTable = false ∧ DecodeTable.loadsAdmitted DecodeTable.empty = true ∧
    DecodeTable.selectorsValid refTable = true ∧
    DecodeTable.selectorsValid (DecodeTable.place refTable 0x08 (some ⟨.noOperand, .load (.reg (.raw 10)) (.r8 .a)⟩)) =
      false := by decide

/-! ### Decoding: every row, by its word written out from 30_encoding.md R60, R67 to R69 -/

/-- Each one-byte word decodes to the row beside it. -/
abbrev Rows (l : List (Nat × Instr)) : Prop := ∀ p ∈ l, decodeTableWord 8 p.1 = some p.2

theorem test_decode_ld_B : Rows
    [(0b01000000, .ld_B_B), (0b01000001, .ld_B_C), (0b01000010, .ld_B_D), (0b01000011, .ld_B_E), (0b01000100, .ld_B_H),
     (0b01000101, .ld_B_L), (0b01000110, .ld_B_atHL), (0b01000111, .ld_B_A)] := by decide

theorem test_decode_ld_C : Rows
    [(0b01001000, .ld_C_B), (0b01001001, .ld_C_C), (0b01001010, .ld_C_D), (0b01001011, .ld_C_E), (0b01001100, .ld_C_H),
     (0b01001101, .ld_C_L), (0b01001110, .ld_C_atHL), (0b01001111, .ld_C_A)] := by decide

theorem test_decode_ld_D : Rows
    [(0b01010000, .ld_D_B), (0b01010001, .ld_D_C), (0b01010010, .ld_D_D), (0b01010011, .ld_D_E), (0b01010100, .ld_D_H),
     (0b01010101, .ld_D_L), (0b01010110, .ld_D_atHL), (0b01010111, .ld_D_A)] := by decide

theorem test_decode_ld_E : Rows
    [(0b01011000, .ld_E_B), (0b01011001, .ld_E_C), (0b01011010, .ld_E_D), (0b01011011, .ld_E_E), (0b01011100, .ld_E_H),
     (0b01011101, .ld_E_L), (0b01011110, .ld_E_atHL), (0b01011111, .ld_E_A)] := by decide

theorem test_decode_ld_H : Rows
    [(0b01100000, .ld_H_B), (0b01100001, .ld_H_C), (0b01100010, .ld_H_D), (0b01100011, .ld_H_E), (0b01100100, .ld_H_H),
     (0b01100101, .ld_H_L), (0b01100110, .ld_H_atHL), (0b01100111, .ld_H_A)] := by decide

theorem test_decode_ld_L : Rows
    [(0b01101000, .ld_L_B), (0b01101001, .ld_L_C), (0b01101010, .ld_L_D), (0b01101011, .ld_L_E), (0b01101100, .ld_L_H),
     (0b01101101, .ld_L_L), (0b01101110, .ld_L_atHL), (0b01101111, .ld_L_A)] := by decide

theorem test_decode_ld_A : Rows
    [(0b01111000, .ld_A_B), (0b01111001, .ld_A_C), (0b01111010, .ld_A_D), (0b01111011, .ld_A_E), (0b01111100, .ld_A_H),
     (0b01111101, .ld_A_L), (0b01111110, .ld_A_atHL), (0b01111111, .ld_A_A)] := by decide

theorem test_decode_ld_atHL : Rows
    [(0b01110000, .ld_atHL_B), (0b01110001, .ld_atHL_C), (0b01110010, .ld_atHL_D), (0b01110011, .ld_atHL_E),
     (0b01110100, .ld_atHL_H), (0b01110101, .ld_atHL_L), (0b01110111, .ld_atHL_A)] := by decide

theorem test_decode_plane_0 : Rows
    [(0b00000000, .nop), (0b00000010, .ld_atBC_A), (0b00001010, .ld_A_atBC), (0b00010010, .ld_atDE_A),
     (0b00011010, .ld_A_atDE), (0b00001001, .add_HL_BC), (0b00011001, .add_HL_DE), (0b00101001, .add_HL_HL),
     (0b00111001, .add_HL_SP), (0b11111001, .ld_SP_HL)] := by decide

theorem test_decode_add_A : Rows
    [(0b10000000, .add_A_B), (0b10000001, .add_A_C), (0b10000010, .add_A_D), (0b10000011, .add_A_E), (0b10000100, .add_A_H),
     (0b10000101, .add_A_L), (0b10000110, .add_A_atHL), (0b10000111, .add_A_A)] := by decide

/-- Kind N: the opcode byte, then n. -/
theorem test_decode_n :
    decode [0b00000110, 0x80] = .row (.ld_B_n 0x80) [] ∧ decode [0b00001110, 0x81] = .row (.ld_C_n 0x81) [] ∧
    decode [0b00010110, 0x82] = .row (.ld_D_n 0x82) [] ∧ decode [0b00011110, 0x83] = .row (.ld_E_n 0x83) [] ∧
    decode [0b00100110, 0x84] = .row (.ld_H_n 0x84) [] ∧ decode [0b00101110, 0x85] = .row (.ld_L_n 0x85) [] ∧
    decode [0b00110110, 0x86] = .row (.ld_atHL_n 0x86) [] ∧ decode [0b00111110, 0x87] = .row (.ld_A_n 0x87) [] ∧
    decode [0b11000110, 0x88] = .row (.add_A_n 0x88) [] := by decide

/-- Kind NN: the opcode byte, then the low byte of nn, then its high byte (R66). -/
theorem test_decode_nn :
    decode [0b00000001, 0x34, 0x12] = .row (.ld_BC_nn 0x1234) [] ∧
    decode [0b00010001, 0x34, 0x12] = .row (.ld_DE_nn 0x1234) [] ∧
    decode [0b00100001, 0x34, 0x12] = .row (.ld_HL_nn 0x1234) [] ∧
    decode [0b00110001, 0x34, 0x12] = .row (.ld_SP_nn 0x1234) [] ∧
    decode [0b00100010, 0x34, 0x12] = .row (.ld_atNN_HL 0x1234) [] ∧
    decode [0b00101010, 0x34, 0x12] = .row (.ld_HL_atNN 0x1234) [] ∧
    decode [0b00110010, 0x34, 0x12] = .row (.ld_atNN_A 0x1234) [] ∧
    decode [0b00111010, 0x34, 0x12] = .row (.ld_A_atNN 0x1234) [] := by decide

/-- V19, V24 to V28: misses; and the rejections of a list too short. -/
theorem test_decode_rejects :
    decode [0x76] = .miss 0x76 [] ∧ decode [0xFF] = .miss 0xFF [] ∧ decode [0xCB, 0x00] = .miss 0xCB [0x00] ∧
    decode [0xDD] = .miss 0xDD [] ∧ decode [0xED] = .miss 0xED [] ∧ decode [0xFD] = .miss 0xFD [] ∧
    decode [0x01, 0x34] = .truncated 0x01 ∧ decode [] = .empty := by decide

/-- V18, V20, V22, V23: the fields of 0x36, 0x7E, 0xC6 and 0xF9. -/
theorem test_decode_fields :
    (fieldX 0x36, fieldY 0x36, fieldZ 0x36) = (0, 6, 6) ∧ (fieldX 0x7E, fieldY 0x7E, fieldZ 0x7E) = (1, 7, 6) ∧
    (fieldX 0xC6, fieldY 0xC6, fieldZ 0xC6) = (3, 0, 6) ∧ (fieldX 0xF9, fieldY 0xF9, fieldZ 0xF9) = (3, 7, 1) ∧
    (fieldP (fieldY 0x29), fieldQ (fieldY 0x29)) = (2, 1) := by decide

/-- The opcode table gives LD BC,nn 24 bits: bits 15:8 are the first trailing byte, and bits at or above 24 are dropped. -/
theorem test_decode_table_word :
    decodeTableWord 24 0x07c501 = some (.ld_BC_nn 0x07c5) ∧ decodeTableWord 8 0x07c501 = some (.ld_BC_nn 0) ∧
    decodeTableWord 8 0x76 = none := by decide

/-! ### Registers (95_test_vectors.md section 2.1) -/

theorem test_pair_views :
    Regs.read16 { regs0 with b := 0x12, c := 0x34 } .bc = 0x3412 ∧ (regs0.write16 .de 0x0001).d = 0x01 ∧
    (regs0.write16 .hl 0xFF00).l = 0xFF ∧ Regs.read16 (Regs.write8 { regs0 with a := 0x7F } .f 0x80) .af = 0x807F ∧
    Regs.read16 (Regs.write8 { regs0 with h := 0x34, l := 0x12 } .l 0x56) .hl = 0x5634 := by decide  -- V1 to V5

theorem test_pc_wraps : (Regs.advance { regs0 with pc := 0xFFFF } 1).pc = 0x0000 := by decide  -- V8

/-- V9. -/
theorem test_raw_selector :
    erred (after (atExec (mk regs0) ⟨.noOperand, .load (.reg (.raw 10)) (.r8 .a)⟩)) .registerNotFound = true := by decide

/-! ### Memory and the host interface (section 2.2) -/

/-- V10 and V11: a 16-bit access is big-endian and does not wrap at 0xFFFF. -/
theorem test_host_16bit :
    ((mk regs0).hostSet2 .dmem 0xFFFF 0x1234).map (·.dmem.cells) = .ok [(0xFFFF, 0x12), (0x10000, 0x34)] ∧
    (mk regs0 (dmem := [(0x1FFFE, 0xBE), (0x1FFFF, 0xEF)])).hostGet2 .dmem 0x1FFFE = .ok 0xBEEF := by decide

/-- V12 to V15 and T8. -/
theorem test_host_bounds :
    (mk regs0 (dmem := [(0x1FFFF, 0x77)])).hostGet1 .dmem 0x1FFFF = .ok 0x77 ∧
    (mk regs0).hostGet1 .dmem 0x20000 = .error (.outOfBounds .dmem 0x20000 1) ∧
    (mk regs0).hostGet2 .dmem 0x1FFFF = .error (.outOfBounds .dmem 0x1FFFF 2) ∧
    (mk regs0).hostStore .dmem 0x1FFFE [1, 2, 3] = .error (.outOfBounds .dmem 0x1FFFE 3) ∧
    (mk regs0 0x1000).hostSet2 .dmem 0x0FFF 0xAAAA = .error (.outOfBounds .dmem 0x0FFF 2) := by decide

/-- 20_memory.md R57 (log entry 18): the host places a program before the first tick and writes nothing after it. -/
theorem test_host_store :
    ((mk regs0).hostStore .imem 0x0100 [0x01, 0xC5, 0x07]).map (·.imem.cells) =
      .ok [(0x100, 0x01), (0x101, 0xC5), (0x102, 0x07)] ∧
    (after (mk regs0)).hostStore .imem 0x0100 [0x01] = .error .writeDuringRun := by decide

/-- 10_state.md R37: a snapshot with a window of two bytes. -/
theorem test_snapshot :
    ((mk { regs0 with b := 0xC5, c := 0x07 } (dmem := [(0x10, 0x5A)])).snapshot .dmem 0x10 2).map
      (fun x => (x.bc, x.regs.b, x.window)) = .ok (0x07C5, 0xC5, [0x5A, 0x00]) := by decide

/-- 40_cycle.md R91: the predicate is evaluated first, and only at Fetch; P5's "out of fuel". -/
theorem test_run_loop :
    runLoop (fun _ => true) 8 (mk regs0) = .terminated (mk regs0) ∧ runLoop (fun _ => false) 0 (mk regs0) = .outOfFuel (mk regs0) := by
  decide

/-- 40_cycle.md R91: one tick spends one fuel, and the loop goes on from the state it leaves. -/
theorem test_run_loop_ticks :
    runLoop (fun _ => false) 1 (mk regs0) = .outOfFuel (after (mk regs0)) ∧
    runLoop (fun _ => false) 1 (mk { regs0 with pc := 4 } 4) =
      .error (.outOfBounds .imem 4 1) (after (mk { regs0 with pc := 4 } 4)) := by decide

/-- Writing the value an unlisted address reads as removes the cell: memories stay canonical. -/
theorem test_memory_canonical :
    ((Memory.mk 8 [(3, 0x11)]).set1 3 0x00) = some ⟨8, []⟩ ∧
    ((Memory.mk 8 [(3, 0x11)]).set1 1 0x22) = some ⟨8, [(1, 0x22), (3, 0x11)]⟩ ∧
    State.reset.imem.cells = [] ∧ State.reset.dmem.cells = [] := by decide

theorem test_reset_memory_wf : State.reset.imem.wf ∧ State.reset.dmem.wf := by decide

/-! ### The cycle (section 2.4) -/

/-- V31. -/
theorem test_fetch_tick :
    let t := after (mk { regs0 with pc := 0x0100 })
    t.stage = .decode ∧ t.regs.pc = 0x0101 ∧ t.pending = some 0x00 ∧ t.lastResult = some .ok := by decide

/-- V32. -/
theorem test_decode_tick :
    let t := after { mk regs0 with stage := .decode, pending := some 0x00 }
    t.stage = .exec ∧ t.pending = none ∧ t.current = some ⟨.noOperand, .nop⟩ ∧ t.lastResult = some .ok := by decide

/-- V52, tick 2. -/
theorem test_decode_miss :
    let t := after { mk regs0 with stage := .decode, pending := some 0x76 }
    t.stage = .exec ∧ t.current = some ⟨.noOperand, .nop⟩ ∧ t.decodeMisses = 1 ∧
    t.lastResult = some (.okDecodeMiss 0x76) := by decide

/-- V33, tick 4. -/
theorem test_writeback_tick : (after { mk regs0 with stage := .writeback }).stage = .fetch := by decide

/-- V35. -/
theorem test_fetch_out_of_bounds :
    let t := after (mk { regs0 with pc := 0x1000 } 0x1000)
    erred t (.outOfBounds .imem 0x1000 1) = true ∧ t.regs.pc = 0x1000 := by decide

/-- V36, tick 3: the first trailing byte is fetched, the second is out of bounds. -/
theorem test_trailing_out_of_bounds :
    let t := after (atExec (mk { regs0 with pc := 0x0FFF, b := 0x09, c := 0x09 } 0x1000) ⟨.nn, .load (.r16 .bc) .imm16⟩)
    erred t (.outOfBounds .imem 0x1000 1) = true ∧ t.regs.pc = 0x1000 ∧ t.regs.b = 0x09 ∧ t.regs.c = 0x09 := by decide

/-- V90 and V94: the trailing fetch is checked before the form. -/
theorem test_check_order :
    erred (after (atExec (mk { regs0 with pc := 0x1000 } 0x1000) ⟨.n, .add (.r8 .a) .imm8⟩)) (.outOfBounds .imem 0x1000 1) =
      true := by decide

/-- V38 and V39. -/
theorem test_empty_opcode :
    isEmptyOpcode (step { mk regs0 with stage := .decode }) = true ∧
    isEmptyOpcode (step { mk regs0 with stage := .exec }) = true := by decide

/-- V93: after an error the next tick fetches. -/
theorem test_after_error :
    (after { mk regs0 with lastResult := some (.err .unsupportedOperandForm) }).stage = .decode := by decide

/-- V91. -/
theorem test_reset :
    State.reset.stage = .fetch ∧ State.reset.pending = none ∧ State.reset.current = none ∧ State.reset.decodeMisses = 0 := by
  decide

/-- Log entry 1: the step after `withFetchWord` is the Exec tick of the word. -/
theorem test_with_fetch_word :
    let s := State.reset.withFetchWord 24 0x07c501
    s.stage = .exec ∧ s.current = some ⟨.nn, .load (.r16 .bc) .imm16⟩ ∧ s.regs.pc = 1 ∧ (after s).stage = .writeback := by
  decide

/-! ### Instructions (sections 2.6 to 2.9): the Exec step of a word placed at PC -/

/-- V51, and V54: a Nop with two trailing bytes. -/
theorem test_nop :
    (ran (mk { regs0 with pc := 0xFFFF }) 8 0x00).regs = regs0 ∧
    (ran (entry (mk regs0) 0x00 ⟨.nn, .nop⟩) 24 0xBBAA00).regs = { regs0 with pc := 0x0003 } := by decide

/-- V55 and V56. -/
theorem test_ld_reg_reg :
    (ran (mk { regs0 with b := 0x11 }) 8 0x48).regs = { regs0 with b := 0x11, c := 0x11, pc := 0x0001 } ∧
    (ran (mk { regs0 with a := 0x55 }) 8 0x7F).regs = { regs0 with a := 0x55, pc := 0x0001 } := by decide

/-- V57 and V58. -/
theorem test_ld_reg_atHL :
    (ran (mk { regs0 with l := 0x20 } (dmem := [(0x2000, 0x5A)])) 8 0x7E).regs.a = 0x5A ∧
    (ran (mk { regs0 with l := 0x20 } (dmem := [(0x2000, 0x99)])) 8 0x66).read16 .hl = 0x2099 := by decide

/-- V59 and V60. -/
theorem test_ld_atHL_reg :
    (ran (mk { regs0 with h := 0x34, l := 0x12 }) 8 0x74).dmem.cells = [(0x1234, 0x34)] ∧
    (ran (mk { regs0 with h := 0x34, l := 0x12, a := 0x99 }) 8 0x77).dmem.cells = [(0x1234, 0x99)] := by decide

/-- V61, and V62: the trailing byte of an opcode at 0xFFFF is at 0x0000. -/
theorem test_ld_reg_n :
    (ran (mk regs0) 16 0x423E).regs = { regs0 with a := 0x42, pc := 0x0002 } ∧
    (ran (mk { regs0 with pc := 0xFFFF }) 16 0x773E).regs = { regs0 with a := 0x77, pc := 0x0001 } := by decide

/-- V63. -/
theorem test_ld_atHL_n :
    let t := ran (mk regs0) 16 0x9936
    erred t .unsupportedOperandForm = true ∧ t.regs = { regs0 with pc := 0x0002 } ∧ t.dmem.cells = [] := by decide

/-- V64 and V65. -/
theorem test_ld_atPair_A :
    (ran (mk { regs0 with b := 0x10, a := 0x7F }) 8 0x02).dmem.cells = [(0x0010, 0x7F)] ∧
    (ran (mk { regs0 with e := 0x30, a := 0x01 }) 8 0x12).dmem.cells = [(0x3000, 0x01)] := by decide

/-- V66 and V67. -/
theorem test_ld_A_atPair :
    (ran (mk { regs0 with c := 0x10 } (dmem := [(0x1000, 0xAB)])) 8 0x0A).regs.a = 0xAB ∧
    (ran (mk { regs0 with d := 0xFF, e := 0xFF } (dmem := [(0xFFFF, 0x01)])) 8 0x1A).regs.a = 0x01 := by decide

/-- V68 and V69. -/
theorem test_ld_absolute :
    (ran (mk { regs0 with a := 0x42 }) 24 0x123432).dmem.cells = [(0x1234, 0x42)] ∧
    (ran (mk regs0 (dmem := [(0x1234, 0x5A)])) 24 0x12343A).regs = { regs0 with a := 0x5A, pc := 0x0003 } := by decide

/-- V70 and V71. -/
theorem test_data_out_of_bounds :
    erred (ran (mk { regs0 with a := 0x05 } 0x1000) 24 0x20003A) (.outOfBounds .dmem 0x2000 1) = true ∧
    (ran (mk { regs0 with a := 0x05 } 0x1000) 24 0x20003A).regs = { regs0 with a := 0x05, pc := 0x0003 } ∧
    erred (ran (mk { regs0 with l := 0x10 } 0x1000) 8 0x70) (.outOfBounds .dmem 0x1000 1) = true := by decide

/-- V72 and V73: displaced-indexed entries of another table. -/
theorem test_displaced :
    (ran (entry (mk { regs0 with ix := 0x1000 } (dmem := [(0x0FFE, 0x33)])) 0xDD
      ⟨.displacement, .load (.r8 .a) (.mem (.r16 .ix))⟩) 16 0xFEDD).regs = { regs0 with ix := 0x1000, a := 0x33, pc := 2 } ∧
    (ran (entry (mk { regs0 with iy := 0x2000, b := 0x77 }) 0xFD
      ⟨.displacement, .load (.mem (.r16 .iy)) (.r8 .b)⟩) 16 0x05FD).dmem.cells = [(0x2005, 0x77)] := by decide

/-- V43 to V46: the signed displacement and the wrap; V48: no address. -/
theorem test_indexed_address :
    indexedAddress (mk { regs0 with ix := 0x1000 }) .ix 0x7F = 0x107F ∧
    indexedAddress (mk { regs0 with ix := 0x1000 }) .ix 0x80 = 0x0F80 ∧
    indexedAddress (mk { regs0 with iy := 0xFFFF }) .iy 0x01 = 0x0000 ∧
    indexedAddress (mk regs0) .ix 0xFF = 0xFFFF ∧
    effectiveAddress (mk regs0) .noOperand (.r16 .ix) = none := by decide

/-- V74 to V76. -/
theorem test_other_entries :
    erred (ran (entry (mk regs0) 0xDD ⟨.noOperand, .load (.r8 .a) (.mem (.r16 .ix))⟩) 8 0xDD) .unsupportedOperandForm = true ∧
    (ran (entry (mk { regs0 with sp := 0x8000 } (dmem := [(0x8000, 0x12)])) 0x08
      ⟨.noOperand, .load (.r8 .b) (.mem (.r16 .sp))⟩) 8 0x08).regs.b = 0x12 ∧
    (ran (entry (mk { regs0 with a := 0x01 }) 0x08 ⟨.n, .load (.r8 .f) .imm8⟩) 16 0xC308).read16 .af = 0xC301 := by decide

/-- V50: `Mem(Reg16(PC))` addresses the byte after the instruction. -/
theorem test_pc_indirect :
    (ran (entry (mk { regs0 with pc := 0x0040 } (dmem := [(0x0041, 0x66)])) 0x08
      ⟨.noOperand, .load (.r8 .b) (.mem (.r16 .pc))⟩) 8 0x08).regs.b = 0x66 := by decide

/-- V77 to V80. -/
theorem test_ld_rp_nn :
    (ran (mk regs0) 24 0x07C501).regs = { regs0 with b := 0xC5, c := 0x07, pc := 3 } ∧
    (ran (mk regs0) 24 0x123411).regs = { regs0 with d := 0x34, e := 0x12, pc := 3 } ∧
    (ran (mk regs0) 24 0x800021).regs = { regs0 with h := 0x00, l := 0x80, pc := 3 } ∧
    (ran (mk regs0) 24 0xFFFE31).regs = { regs0 with sp := 0xFFFE, pc := 3 } := by decide

/-- V81 to V83. -/
theorem test_ld16_unsupported :
    erred (ran (mk regs0) 24 0x100022) .unsupportedOperandForm = true ∧
    (ran (mk { regs0 with h := 0x01, l := 0x02 }) 24 0x12342A).regs = { regs0 with h := 0x01, l := 0x02, pc := 3 } ∧
    (ran (mk { regs0 with sp := 0x1234, l := 0x80 }) 8 0xF9).regs = { regs0 with sp := 0x1234, l := 0x80, pc := 1 } := by decide

/-- V84 and V85. -/
theorem test_ld_other16_nn :
    (ran (entry (mk { regs0 with pc := 0x0010 }) 0xC3 ⟨.nn, .load (.r16 .pc) .imm16⟩) 24 0x4000C3).regs.pc = 0x4000 ∧
    (ran (entry (mk regs0) 0x08 ⟨.nn, .load (.r16 .af) .imm16⟩) 24 0x800108).regs = { regs0 with a := 0x01, f := 0x80, pc := 3 } := by
  decide

/-- V86 to V89: every Add raises UnsupportedOperandForm; V87 reads no memory. -/
theorem test_add :
    (ran (mk { regs0 with a := 0x01, b := 0x02 }) 8 0x80).regs = { regs0 with a := 0x01, b := 0x02, pc := 1 } ∧
    erred (ran (mk { regs0 with h := 0xFF, l := 0xFF } 0x1000) 8 0x86) .unsupportedOperandForm = true ∧
    (ran (mk { regs0 with a := 0x10 }) 16 0x05C6).regs = { regs0 with a := 0x10, pc := 2 } ∧
    erred (ran (mk { regs0 with h := 0x12, l := 0x34 }) 8 0x29) .unsupportedOperandForm = true := by decide

/-! ### Witnesses: for each obligation with hypotheses, a state and operands that meet them all, clause by clause, at the
boundary of each range -/

theorem witness_PairReadPutsHighInTheLowByte :
    pairHalves .bc = some (.b, .c) ∧ pairHalves .de = some (.d, .e) ∧ pairHalves .hl = some (.h, .l) ∧
    pairHalves .af = some (.a, .f) := by decide

theorem witness_PairWriteSplitsTheValue : pairHalves .af = some (.a, .f) ∧ Reg8.r ≠ .a ∧ Reg8.r ≠ .f := by decide

theorem witness_PairViewsAreBidirectional : pairHalves .hl = some (.h, .l) := by decide

theorem witness_TrueRegistersAreIndependentStorage :
    pairHalves .pc = none ∧ pairHalves .sp = none ∧ pairHalves .ix = none ∧ pairHalves .iy = none ∧ Reg16.iy ≠ .pc := by
  decide

/-- A memory of four bytes with one cell listed. -/
def four : Memory := ⟨4, [(1, 0x11)]⟩

theorem witness_MemoryRoundTrip : four.wf ∧ 3 < four.cap ∧ 2 + 1 < four.cap ∧ 0 ≠ 3 := by decide

theorem witness_AccessOutsideCapacityFails :
    let s := mk regs0 4
    (s.mem .dmem).cap < 4 + 1 ∧ (s.mem .dmem).cap < 3 + 2 ∧ (s.mem .imem).cap < 2 + 3 ∧ (s.mem .imem).cap < 5 + 0 ∧ [1, 2, 3].length = 3 ∧
    s.lastResult = none ∧ 3 + 1 ≤ (s.mem .imem).cap ∧ 2 + 2 ≤ (s.mem .dmem).cap ∧ 4 + 0 ≤ (s.mem .dmem).cap := by decide

theorem witness_BulkStoreThenLoad :
    four.wf ∧ 2 + [0xAA, 0xBB].length ≤ four.cap ∧ 1 < [0xAA, 0xBB].length ∧ (1 < 2 ∨ 2 + [0xAA, 0xBB].length ≤ 1) := by
  decide

theorem witness_HostWritesOnlyBeforeTheFirstTick : ∃ t, step (mk regs0) = .next t := ⟨_, rfl⟩

theorem witness_SnapshotShowsRegistersPairsAndWindow :
    2 + 2 ≤ ((mk regs0 4).mem .dmem).cap ∧ 4 + 0 ≤ ((mk regs0 4).mem .imem).cap := by decide

theorem witness_RefTableHoldsExactlyTheRows :
    DecodeTable.lookup refTable 0x01 = some ⟨.nn, .load (.r16 .bc) .imm16⟩ := by decide

theorem witness_EncodeOfDecode :
    decode [0x01, 0xC5, 0x07, 0x00] = .row (.ld_BC_nn 0x07c5) [0x00] ∧ decode [0x76] = .miss 0x76 [] := by decide

theorem witness_FetchTick :
    let s := mk { regs0 with pc := 0x0FFF } 0x1000
    s.stage = .fetch ∧ s.regs.pc.toNat < s.imem.cap := by decide

theorem witness_FetchOutOfBoundsRepeats :
    let s := mk { regs0 with pc := 0x1000 } 0x1000
    s.stage = .fetch ∧ s.imem.cap ≤ s.regs.pc.toNat := by decide

theorem witness_DecodeTick :
    let hit := { mk regs0 with stage := .decode, pending := some 0x48 }
    let miss := { mk regs0 with stage := .decode, pending := some 0x76 }
    (hit.stage = .decode ∧ hit.pending = some 0x48 ∧ (DecodeTable.lookup hit.table 0x48).isSome = true) ∧
    (miss.stage = .decode ∧ miss.pending = some 0x76 ∧ DecodeTable.lookup miss.table 0x76 = none) := by decide

theorem witness_EmptyOpcodeIsRefused :
    let d := { mk regs0 with stage := .decode }
    let x := { mk regs0 with stage := .exec }
    (d.stage = .decode ∧ d.pending = none) ∧ (x.stage = .exec ∧ x.current = none) := by decide

/-- LD BC,nn at stage Exec with its first trailing byte the last byte of instruction memory. -/
def cutShort : State :=
  atExec (code (mk { regs0 with pc := 3 } 4) [(3, 0x34)]) ⟨.nn, .load (.r16 .bc) .imm16⟩

theorem witness_TrailingFetchOutOfBounds :
    cutShort.stage = .exec ∧ cutShort.current = some ⟨.nn, .load (.r16 .bc) .imm16⟩ ∧
    cutShort.imem.Holds cutShort.regs.pc [0x34] ∧ [(0x34 : Byte)].length < Kind.nn.trailing ∧
    cutShort.imem.cap ≤ (cutShort.regs.pc + BitVec.ofNat 16 [(0x34 : Byte)].length).toNat :=
  ⟨rfl, rfl, ⟨by decide, trivial⟩, by decide, by decide⟩

/-- The same with no trailing byte in instruction memory. -/
theorem witness_TrailingFetchOutOfBounds_first :
    let s := atExec (mk { regs0 with pc := 4 } 4) ⟨.n, .add (.r8 .a) .imm8⟩
    s.stage = .exec ∧ s.imem.Holds s.regs.pc [] ∧ ([] : List Byte).length < Kind.n.trailing ∧
    s.imem.cap ≤ (s.regs.pc + BitVec.ofNat 16 ([] : List Byte).length).toNat :=
  ⟨rfl, trivial, by decide, by decide⟩

/-- LD BC,0x07c5 at stage Exec, its bytes the last two of instruction memory. -/
def atLdBC : State := atExec (code (mk { regs0 with pc := 2 } 4) [(2, 0xC5), (3, 0x07)]) ⟨.nn, .load (.r16 .bc) .imm16⟩

theorem witness_StepRunsTheDecodedInstruction :
    atLdBC.stage = .exec ∧ atLdBC.current = some (Instr.ld_BC_nn 0x07c5).template ∧
    atLdBC.imem.Holds atLdBC.regs.pc (Instr.ld_BC_nn 0x07c5).trailing.bytes :=
  ⟨rfl, rfl, by decide, by decide, trivial⟩

/-- LD BC,0x07c5 at PC, its bytes ending at address 0 past the wrap of PC. -/
def wrapping : State := code (mk { regs0 with pc := 0xFFFE }) [(0, 0x07), (0xFFFE, 0x01), (0xFFFF, 0xC5)]

theorem witness_ThreeStepsRunTheInstructionAtPc :
    wrapping.stage = .fetch ∧ wrapping.table = refTable ∧ wrapping.imem.Holds wrapping.regs.pc [0x01, 0xC5, 0x07] ∧
    decode [0x01, 0xC5, 0x07] = .row (.ld_BC_nn 0x07c5) [] :=
  ⟨rfl, rfl, ⟨by decide, by decide, by decide, trivial⟩, by decide⟩

theorem witness_MissedOpcodeRunsAsNoOp :
    let s := code (mk regs0) [(0, 0x76)]
    s.stage = .fetch ∧ s.imem.get1 s.regs.pc.toNat = some 0x76 ∧ DecodeTable.lookup s.table 0x76 = none := by decide

theorem witness_NopWithTrailingBytes :
    let s := entry (code (mk regs0) [(1, 0xAA), (2, 0xBB)]) 0x00 ⟨.nn, .nop⟩
    s.stage = .fetch ∧ s.imem.Holds s.regs.pc [0x00, 0xAA, 0xBB] ∧ [(0xAA : Byte), 0xBB].length = Kind.nn.trailing ∧
    DecodeTable.lookup s.table 0x00 = some ⟨.nn, .nop⟩ :=
  ⟨rfl, ⟨by decide, by decide, by decide, trivial⟩, rfl, by decide⟩

theorem witness_WritebackTick : { mk regs0 with stage := .writeback }.stage = Stage.writeback := rfl

/-- One step from each stage: a Fetch, a Decode, an Exec, a Writeback; and one that returns an error. -/
theorem witness_StagesFollowTheCycle :
    (∃ t, step (mk regs0) = .next t) ∧ (∃ t, step { mk regs0 with stage := .decode, pending := some 0x00 } = .next t) ∧
    (∃ t, step (atExec (mk regs0) ⟨.noOperand, .nop⟩) = .next t) ∧
    (∃ t, step { mk regs0 with stage := .writeback } = .next t) ∧
    (∃ t, step (mk { regs0 with pc := 4 } 4) = .next t ∧ t.errored = true) :=
  ⟨⟨_, rfl⟩, ⟨_, rfl⟩, ⟨_, rfl⟩, ⟨_, rfl⟩, ⟨_, rfl, rfl⟩⟩

/-- ADD A,0x05 raises an error; LD BC,nn (`witness_ThreeStepsRunTheInstructionAtPc`) raises none. -/
theorem witness_InstructionRetiresInFourSteps :
    let s := code (mk regs0) [(0, 0xC6), (1, 0x05)]
    s.stage = .fetch ∧ s.table = refTable ∧ s.imem.Holds s.regs.pc [0xC6, 0x05] ∧
    decode [0xC6, 0x05] = .row (.add_A_n 0x05) [] :=
  ⟨rfl, rfl, ⟨by decide, by decide, trivial⟩, by decide⟩

theorem witness_RegisterCopies : (Instr.ld_A_B, Reg8.a, Reg8.b) ∈ regRegRows := by decide

/-- The last byte of data memory is addressed by HL, by BC and by DE. -/
theorem witness_RegisterIndirectLoads :
    let s := mk { regs0 with l := 0x0F, h := 0xFF, c := 0x0F, b := 0xFF, e := 0x0F, d := 0xFF } 0x1000
    (Instr.ld_H_atHL, Reg8.h, Reg16.hl) ∈ regAtRows ∧ (Instr.ld_A_atBC, Reg8.a, Reg16.bc) ∈ regAtRows ∧
    (Instr.ld_A_atDE, Reg8.a, Reg16.de) ∈ regAtRows ∧ (s.regs.read16 .hl).toNat < s.dmem.cap ∧
    (s.regs.read16 .bc).toNat < s.dmem.cap ∧ (s.regs.read16 .de).toNat < s.dmem.cap := by decide

theorem witness_RegisterIndirectStores :
    let s := mk { regs0 with l := 0x0F, h := 0xFF, c := 0x0F, b := 0xFF, e := 0x0F, d := 0xFF } 0x1000 [(0x0FFF, 0x5A)]
    (Instr.ld_atHL_L, Reg16.hl, Reg8.l) ∈ atRegRows ∧ (Instr.ld_atBC_A, Reg16.bc, Reg8.a) ∈ atRegRows ∧
    (Instr.ld_atDE_A, Reg16.de, Reg8.a) ∈ atRegRows ∧ s.dmem.wf ∧ (s.regs.read16 .hl).toNat < s.dmem.cap ∧
    (s.regs.read16 .bc).toNat < s.dmem.cap ∧ (s.regs.read16 .de).toNat < s.dmem.cap := by decide

theorem witness_RegisterImmediates : (Instr.ld_A_n 0x42, Reg8.a) ∈ regImmRows 0x42 := by decide

theorem witness_AbsoluteLoadAndStore :
    (0x0FFF : Word).toNat < (mk regs0 0x1000).dmem.cap ∧ (mk regs0 0x1000).dmem.wf := by decide

theorem witness_SixteenBitImmediates : (Instr.ld_HL_nn 0x1234, Reg8.h, Reg8.l) ∈ pairImmRows 0x1234 ∧ Reg8.a ≠ .h := by decide

theorem witness_UnsupportedRowsOnlyRaise : Instr.ld_atHL_n 0x99 ∈ unsupportedRows 0x99 0x1234 := by decide

theorem witness_DataAccessOutOfBounds :
    let s := mk { regs0 with l := 0x10 } 0x1000
    (Instr.ld_A_atHL, Reg8.a, Reg16.hl) ∈ regAtRows ∧ (Instr.ld_atHL_A, Reg16.hl, Reg8.a) ∈ atRegRows ∧
    s.dmem.cap ≤ (s.regs.read16 .hl).toNat ∧ s.dmem.cap ≤ (0x1000 : Word).toNat := by decide

/-- Other entries at the capacity 0x1000: a load by (IX+d) across the end of data memory, a store by (SP), a load by (nn). -/
theorem witness_DataAccessOutOfBounds_entries :
    let indexed := atExec (code (mk { regs0 with ix := 0x0FFF } 0x1000) [(0, 0x01)])
      ⟨.displacement, .load (.r8 .r) (.mem (.r16 .ix))⟩
    let stack := atExec (mk { regs0 with sp := 0x1000 } 0x1000) ⟨.noOperand, .load (.mem (.r16 .sp)) (.r8 .f)⟩
    let absolute := atExec (code (mk regs0 0x1000) [(1, 0x10)]) ⟨.nn, .load (.r8 .i) (.mem .imm16)⟩
    (indexed.stage = .exec ∧ indexed.current = some ⟨.displacement, .load (.r8 .r) (.mem (.r16 .ix))⟩ ∧
      indexed.imem.Holds indexed.regs.pc [0x01] ∧
      Addresses indexed .displacement (.r16 .ix) [0x01] 0x1000 ∧ indexed.dmem.cap ≤ (0x1000 : Word).toNat) ∧
    (stack.stage = .exec ∧ stack.current = some ⟨.noOperand, .load (.mem (.r16 .sp)) (.r8 .f)⟩ ∧
      stack.imem.Holds stack.regs.pc [] ∧
      Addresses stack .noOperand (.r16 .sp) [] 0x1000 ∧ stack.dmem.cap ≤ (0x1000 : Word).toNat) ∧
    (absolute.stage = .exec ∧ absolute.current = some ⟨.nn, .load (.r8 .i) (.mem .imm16)⟩ ∧
      absolute.imem.Holds absolute.regs.pc [0x00, 0x10] ∧
      Addresses absolute .nn .imm16 [0x00, 0x10] 0x1000 ∧ absolute.dmem.cap ≤ (0x1000 : Word).toNat) :=
  ⟨⟨rfl, rfl, ⟨by decide, trivial⟩, .inl ⟨.ix, 0x01, .inl rfl, rfl, rfl, rfl, by decide⟩, by decide⟩,
    ⟨rfl, rfl, trivial, .inr (.inl ⟨.sp, by decide, by decide, rfl, rfl, rfl, by decide⟩), by decide⟩,
    rfl, rfl, ⟨by decide, by decide, trivial⟩, .inr (.inr ⟨0x00, 0x10, rfl, rfl, rfl, by decide⟩), by decide⟩

/-- Loads and stores through IX - 1 and through IY + 1 past the wrap of the address. -/
theorem witness_DisplacedIndexedLoadsAndStores :
    let base := code (mk { regs0 with iy := 0xFFFF } (dmem := [(0, 0x33)])) [(0, 0x01)]
    let load := atExec base ⟨.displacement, .load (.r8 .a) (.mem (.r16 .iy))⟩
    let store := atExec base ⟨.displacement, .load (.mem (.r16 .iy)) (.r8 .a)⟩
    load.stage = .exec ∧ load.imem.Holds load.regs.pc [0x01] ∧
    ((0 : Word) = load.regs.read16 .iy + (0x01 : Byte).signExtend 16) ∧ (0 : Word).toNat < load.dmem.cap ∧
    load.current = some ⟨.displacement, .load (.r8 .a) (.mem (.r16 .iy))⟩ ∧
    store.imem.Holds store.regs.pc [0x01] ∧
    store.current = some ⟨.displacement, .load (.mem (.r16 .iy)) (.r8 .a)⟩ ∧ store.dmem.wf :=
  ⟨rfl, ⟨by decide, trivial⟩, by decide, by decide, rfl, ⟨by decide, trivial⟩, rfl, by decide⟩

theorem witness_RegisterIndirectThroughAnyBase :
    let base := mk { regs0 with sp := 0x0FFF } 0x1000
    let load := atExec base ⟨.noOperand, .load (.r8 .r) (.mem (.r16 .sp))⟩
    let store := atExec base ⟨.noOperand, .load (.mem (.r16 .sp)) (.r8 .i)⟩
    load.stage = .exec ∧ Reg16.sp ≠ .ix ∧ Reg16.sp ≠ .iy ∧ (load.regs.read16 .sp).toNat < load.dmem.cap ∧
    load.current = some ⟨.noOperand, .load (.r8 .r) (.mem (.r16 .sp))⟩ ∧
    store.current = some ⟨.noOperand, .load (.mem (.r16 .sp)) (.r8 .i)⟩ ∧ store.dmem.wf := by decide

/-- The four kinds of entry, with the bytes 0xFF 0x0F after the opcode and a data memory of 0x1000 bytes. -/
def anyForm (v : Instruction) : State := atExec (code (mk regs0 0x1000) [(0, 0xFF), (1, 0x0F)]) v

theorem witness_AnyRegisterForms :
    let copy := anyForm ⟨.noOperand, .load (.r8 .f) (.r8 .i)⟩
    let imm := anyForm ⟨.n, .load (.r8 .f) .imm8⟩
    let load := anyForm ⟨.nn, .load (.r8 .f) (.mem .imm16)⟩
    let store := anyForm ⟨.nn, .load (.mem .imm16) (.r8 .i)⟩
    (copy.stage = .exec ∧ copy.current = some ⟨.noOperand, .load (.r8 .f) (.r8 .i)⟩) ∧
    (imm.current = some ⟨.n, .load (.r8 .f) .imm8⟩ ∧ imm.imem.Holds imm.regs.pc [0xFF]) ∧
    (load.imem.Holds load.regs.pc [0xFF, 0x0F] ∧ (imm16 0xFF 0x0F).toNat < load.dmem.cap ∧
      load.current = some ⟨.nn, .load (.r8 .f) (.mem .imm16)⟩) ∧
    (store.current = some ⟨.nn, .load (.mem .imm16) (.r8 .i)⟩ ∧ store.dmem.wf) :=
  ⟨⟨rfl, rfl⟩, ⟨rfl, by decide, trivial⟩, ⟨⟨by decide, by decide, trivial⟩, by decide, rfl⟩, rfl, by decide⟩

theorem witness_SixteenBitImmediateEntries :
    let jump := anyForm ⟨.nn, .load (.r16 .pc) .imm16⟩
    jump.stage = .exec ∧ jump.current = some ⟨.nn, .load (.r16 .pc) .imm16⟩ ∧ jump.imem.Holds jump.regs.pc [0xFF, 0x0F] :=
  ⟨rfl, rfl, by decide, by decide, trivial⟩

theorem witness_UnadmittedFormsAreUnsupported :
    let ld := anyForm ⟨.noOperand, .load (.r8 .a) (.mem (.r16 .ix))⟩
    let add := anyForm ⟨.n, .add (.r8 .a) .imm8⟩
    (ld.stage = .exec ∧ ld.current = some ⟨.noOperand, .load (.r8 .a) (.mem (.r16 .ix))⟩ ∧ ld.imem.Holds ld.regs.pc [] ∧
      (Operand.r8 .a).admittedLoad .noOperand (.mem (.r16 .ix)) = false) ∧
    (add.current = some ⟨.n, .add (.r8 .a) .imm8⟩ ∧ add.imem.Holds add.regs.pc [0xFF]) :=
  ⟨⟨rfl, rfl, trivial, by decide⟩, rfl, by decide, trivial⟩

theorem witness_RawSelectorsRaiseRegisterNotFound :
    let s := anyForm ⟨.nn, .load (.reg (.raw 10)) (.mem .imm16)⟩
    s.stage = .exec ∧ s.current = some ⟨.nn, .load (.reg (.raw 10)) (.mem .imm16)⟩ ∧
    s.imem.Holds s.regs.pc [0xFF, 0x0F] ∧ [(0xFF : Byte), 0x0F].length = Kind.nn.trailing ∧
    (Operand.reg (.raw 10)).admittedLoad .nn (.mem .imm16) = true ∧
    ((Operand.reg (.raw 10)).selectorsValid && (Operand.mem .imm16).selectorsValid) = false :=
  ⟨rfl, rfl, ⟨by decide, by decide, trivial⟩, rfl, by decide, by decide⟩

/-- A step that changes B and C, and one that changes SP. -/
theorem witness_RegistersChangeOnlyAsNamedDestinations :
    (∃ t, step atLdBC = .next t ∧ t.regs.read8 .b ≠ atLdBC.regs.read8 .b) ∧
    (let s := anyForm ⟨.nn, .load (.r16 .sp) .imm16⟩
     ∃ t, step s = .next t ∧ pairHalves .sp = none ∧ t.regs.read16 .sp ≠ s.regs.read16 .sp) :=
  ⟨⟨_, rfl, by decide⟩, _, rfl, by decide, by decide⟩

/-- The stages of each clause are those of `witness_StagesFollowTheCycle`; an Exec tick that fetches one byte of two. -/
theorem witness_PcMovesOnlyByFetchingOrLoadPc :
    ∃ t, step cutShort = .next t ∧ cutShort.stage = .exec ∧ t.errored = true ∧ t.regs.pc = cutShort.regs.pc + 1 :=
  ⟨_, rfl, rfl, by decide, by decide⟩

/-- A store that changes the last byte of data memory. -/
theorem witness_MemoryIsWrittenOnlyByStores :
    let s := atExec (mk { regs0 with a := 0x5A, sp := 0x0FFF } 0x1000) ⟨.noOperand, .load (.mem (.r16 .sp)) (.r8 .a)⟩
    ∃ t, step s = .next t ∧ t.dmem.byteAt 0x0FFF ≠ s.dmem.byteAt 0x0FFF :=
  ⟨_, rfl, by decide⟩

theorem witness_ParametersNeverChange :
    (∃ t, step { mk regs0 with stage := .decode, pending := some 0x76 } = .next t ∧
      t.lastResult = some (.okDecodeMiss 0x76)) ∧
    (∃ t, step (mk regs0) = .next t ∧ t.lastResult = some .ok) :=
  ⟨⟨_, rfl, by decide⟩, _, rfl, by decide⟩

/-- Capacities of 1, and a listed byte. -/
theorem witness_ConstructionState : Params.Legal ⟨0x0100, regs0, ⟨1, [(0, 0x01)]⟩, ⟨1, []⟩, refTable⟩ :=
  ⟨by decide, by decide⟩

theorem small_legal : Params.Legal ⟨0, regs0, ⟨4, [(1, 0x11)]⟩, ⟨4, []⟩, refTable⟩ := ⟨by decide, by decide⟩

/-- A constructed machine of four bytes of each memory. -/
def small : State := State.construct ⟨0, regs0, ⟨4, [(1, 0x11)]⟩, ⟨4, []⟩, refTable⟩

theorem small_inv : small.Inv :=
  ⟨by decide, by decide, by decide, by decide, fun _ h => by cases h⟩

theorem witness_InvariantIsKept : small.Inv ∧ ∃ t, step small = .next t := ⟨small_inv, _, rfl⟩

/-- An Exec state that meets the invariant, with a current entry of the table. -/
theorem witness_InvariantIsKept_exec : (atExec small ⟨.n, .add (.r8 .a) .imm8⟩).Inv :=
  ⟨by decide, by decide, by decide, by decide, fun v h => .inr ⟨0xC6, by cases h; decide⟩⟩

theorem witness_ReachableMachineNeverStops : Reachable small ∧ ∃ t, step small = .next t ∧ Reachable t :=
  ⟨.construct small_legal, _, rfl, .tick (.construct small_legal) rfl⟩

theorem witness_AbortedExecChangesOnlyPc : ∃ t, step cutShort = .next t ∧ t.errored = true := ⟨_, rfl, by decide⟩

/-- A table whose Loads are all admitted, with a current Load of it. -/
theorem witness_CheckedTablesRaiseNoFormError :
    let v : Instruction := ⟨.noOperand, .load (.r8 .a) (.r8 .b)⟩
    let s := atExec { small with table := DecodeTable.place DecodeTable.empty 0x78 (some v) } v
    s.Inv ∧ (∃ t, step s = .next t) ∧ DecodeTable.loadsAdmitted s.table = true ∧
    (∀ w lhs rhs, s.current = some w → w.operation ≠ .add lhs rhs) ∧ DecodeTable.selectorsValid s.table = true :=
  ⟨⟨by decide, by decide, by decide, by decide, fun v h => .inr ⟨0x78, by cases h; decide⟩⟩, ⟨_, rfl⟩, by decide,
    fun w lhs rhs h => (by cases h; intro h; nomatch h), by decide⟩

theorem witness_LargeCapacitiesRaiseNoOutOfBounds :
    65536 ≤ (mk regs0 65536).imem.cap ∧ 65536 ≤ (mk regs0 65536).dmem.cap ∧ ∃ t, step (mk regs0 65536) = .next t :=
  ⟨by decide, by decide, _, rfl⟩

/-- At Fetch with the predicate true; with it false and a tick that returns no error; with a tick that returns one; with
a tick that is refused; and the invariant with a run that ends terminated and one that ends with an error. -/
theorem witness_RunLoopStopsAsTheReferenceLoop :
    let past := { small with regs := { regs0 with pc := 4 } }
    let bad := { small with stage := .decode }
    (small.stage = .fetch ∧ (fun _ : State => true) small = true) ∧
    ((small.stage = .fetch → (fun _ : State => false) small = false) ∧
      ∃ t, step small = .next t ∧ ∀ e, t.lastResult ≠ some (.err e)) ∧
    (∃ t, step past = .next t ∧ t.lastResult = some (.err (.outOfBounds .imem 4 1))) ∧
    (bad.stage ≠ .fetch ∧ ∃ t, step bad = .refused (.emptyOpcode t)) ∧
    (small.Inv ∧ runLoop (fun _ => true) 1 small = .terminated small) ∧
    (past.Inv ∧ runLoop (fun _ => false) 1 past = .error (.outOfBounds .imem 4 1) (after past)) :=
  ⟨⟨rfl, rfl⟩, ⟨fun _ => rfl, _, rfl, fun _ h => by cases h⟩, ⟨_, rfl, by decide⟩, ⟨by decide, _, rfl⟩,
    ⟨small_inv, by decide⟩, ⟨by decide, by decide, by decide, by decide, fun _ h => by cases h⟩, by decide⟩

/-- Accesses that end at the last byte, and an empty bulk access at the capacity. -/
theorem witness_HostAccessesReachTheNamedMemory :
    let s := mk regs0 4
    3 + 1 ≤ (s.mem .imem).cap ∧ 2 + 2 ≤ (s.mem .dmem).cap ∧ 2 + 2 ≤ (s.mem .imem).cap ∧ 4 + 0 ≤ (s.mem .dmem).cap ∧
    ([0xAA, 0xBB] : List Byte).length = 2 ∧ s.lastResult = none ∧ MemId.imem ≠ .dmem := by decide

end Sys2Proof.Tests
end

section
/-! PROOFS. What no step can change (00_scope.md R5, R9; 10_state.md R33, R35): the decode table, instruction memory and
the capacity of data memory; and which steps count a decode miss. -/

namespace Sys2Proof.Machine

variable {s t : State} {op : Operation}

/-! ### What no operation changes in its Exec tick -/

/-- An operation writes only registers, data memory, the stage and the tick's answer. -/
theorem Effect.rest (h : Effect op s t) : Claims.Rest s t := by
  cases h <;> exact ⟨rfl, rfl, rfl, rfl, rfl⟩

theorem Effect.dmem_cap (h : Effect op s t) : t.dmem.cap = s.dmem.cap := by
  cases h with
  | store => exact Memory.setByte_cap ..
  | _ => rfl

/-- An operation answers Ok or an error, never the warning: that is Decode's (40_cycle.md R83). -/
theorem Effect.lastResult_ne_okDecodeMiss (h : Effect op s t) (b : Byte) : t.lastResult ≠ some (.okDecodeMiss b) := by
  cases h <;> simp

/-! ### What no step changes -/

theorem step_keeps_table (h : step s = .next t) : t.table = s.table := by
  cases step_cases h with
  | applied _ _ _ _ he => exact he.rest.table
  | _ => rfl

theorem step_keeps_imem (h : step s = .next t) : t.imem = s.imem := by
  cases step_cases h with
  | applied _ _ _ _ he => exact he.rest.imem
  | _ => rfl

theorem step_keeps_dmem_cap (h : step s = .next t) : t.dmem.cap = s.dmem.cap := by
  cases step_cases h with
  | applied _ _ _ _ he => exact he.dmem_cap
  | _ => rfl

/-! ### The count of decode misses -/

/-- A step answers the warning and counts it, or does neither. -/
theorem step_counts_decodeMisses (h : step s = .next t) :
    ((∃ b, t.lastResult = some (.okDecodeMiss b)) ∧ t.decodeMisses = s.decodeMisses + 1) ∨
    ((¬ ∃ b, t.lastResult = some (.okDecodeMiss b)) ∧ t.decodeMisses = s.decodeMisses) := by
  cases step_cases h with
  | miss b => exact .inl ⟨⟨b, rfl⟩, rfl⟩
  | applied _ _ _ _ he => exact .inr ⟨fun ⟨b, hb⟩ => he.lastResult_ne_okDecodeMiss b hb, he.rest.decodeMisses⟩
  | _ => exact .inr ⟨nofun, rfl⟩

end Sys2Proof.Machine

namespace Sys2Proof.Claims

open Sys2Proof.Machine

/-- Settles O50: of all a step can do, only a decode miss counts, and nothing writes a parameter. -/
theorem parametersNeverChange : Obligations.ParametersNeverChange := by
  intro s t h
  refine ⟨step_keeps_table h, congrArg Memory.cap (step_keeps_imem h), step_keeps_dmem_cap h, ?_⟩
  obtain ⟨warned, counted⟩ | ⟨silent, kept⟩ := step_counts_decodeMisses h
  · exact ⟨fun _ => counted, fun silent => absurd warned silent⟩
  · exact ⟨fun warned => absurd warned silent, fun _ => kept⟩

end Sys2Proof.Claims
end

section
/-! PROOFS. The register file (10_state.md R15 to R29): pairs and true registers under writes, PC's advance, which
registers a step changes and how PC moves; and what the host's bulk read and the snapshot give (20_memory.md R42,
10_state.md R37). -/

namespace Sys2Proof.Machine

/-! ### The register file -/

section

variable (g : Regs)

theorem Regs.sameWords_write8 (reg : Reg8) (v : Byte) : Claims.SameWords g (g.write8 reg v) :=
  ⟨g.write8_pc reg v, g.write8_sp reg v, g.write8_ix reg v, g.write8_iy reg v⟩

theorem Regs.oneByteWritten_write8 (reg : Reg8) (v : Byte) : Claims.OneByteWritten reg v g (g.write8 reg v) :=
  ⟨g.read8_write8_same reg v, fun _ => g.read8_write8_other v, g.sameWords_write8 reg v⟩

/-- A pair's write changes no 8-bit register but its two constituents (10_state.md R20). -/
theorem Regs.read8_write16_pair_other {p : Reg16} {high low reg : Reg8} (h : pairHalves p = some (high, low)) (v : Word)
    (hhigh : reg ≠ high) (hlow : reg ≠ low) : (g.write16 p v).read8 reg = g.read8 reg := by
  rw [g.write16_pair h, Regs.read8_write8_other _ _ hlow, Regs.read8_write8_other _ _ hhigh]

theorem Regs.read16_write16_true {p q : Reg16} (hp : pairHalves p = none) (hq : pairHalves q = none) (v : Word) :
    (g.write16 p v).read16 q = if q = p then v else g.read16 q := by
  cases p <;> cases hp <;> cases q <;> cases hq <;> rfl

/-- A write to another true register or to a pair leaves a true 16-bit register (10_state.md R20, R22). -/
theorem Regs.read16_write16_other {p q : Reg16} (hq : pairHalves q = none) (hne : q ≠ p) (v : Word) :
    (g.write16 p v).read16 q = g.read16 q := by
  match hp : pairHalves p with
  | some (high, low) => rw [g.write16_pair hp, Regs.read16_write8_true _ hq, Regs.read16_write8_true _ hq]
  | none => rw [g.read16_write16_true hp hq, if_neg hne]

end

/-! ### Which registers an operation and a step change -/

variable {s t : State} {op : Operation}

/-- An operation changes an 8-bit register only as a Load to it or, from a 16-bit immediate, to its pair. -/
theorem Effect.destination_of_read8_ne (h : Effect op s t) {reg : Reg8} (hne : t.regs.read8 reg ≠ s.regs.read8 reg) :
    (∃ src, op = .load (.r8 reg) src) ∨
      ∃ p high low, pairHalves p = some (high, low) ∧ (reg = high ∨ reg = low) ∧ op = .load (.r16 p) .imm16 := by
  cases h with
  | reg8 dst src v hop =>
    by_cases hreg : reg = dst
    · exact .inl ⟨src, hreg ▸ hop⟩
    · exact absurd (s.regs.read8_write8_other v hreg) hne
  | reg16 p v hop =>
    match hp : pairHalves p with
    | none => exact absurd (s.regs.read8_write16_true hp v reg) hne
    | some (high, low) =>
      refine .inr ⟨p, high, low, hp, ?_, hop⟩
      by_contra hother
      obtain ⟨hhigh, hlow⟩ := not_or.mp hother
      exact hne (s.regs.read8_write16_pair_other hp v hhigh hlow)
  | _ => exact absurd rfl hne

/-- An operation changes a true 16-bit register only as a Load of a 16-bit immediate to it. -/
theorem Effect.destination_of_read16_ne (h : Effect op s t) {p : Reg16} (hp : pairHalves p = none)
    (hne : t.regs.read16 p ≠ s.regs.read16 p) : op = .load (.r16 p) .imm16 := by
  cases h with
  | reg8 dst _ v => exact absurd (s.regs.read16_write8_true hp dst v) hne
  | reg16 dst v hop =>
    by_cases hdst : p = dst
    · exact hdst ▸ hop
    · exact absurd (s.regs.read16_write16_other hp hdst v) hne
  | _ => exact absurd rfl hne

/-- A step advances PC and changes no other register, or it is an Exec tick that applies its operation. -/
theorem step_regs_cases (h : step s = .next t) :
    (∃ n, t.regs = s.regs.advance n) ∨
      (s.stage = .exec ∧ ∃ v, s.current = some v ∧ Effect v.operation (s.advance v.kind.trailing) t) := by
  cases step_cases h with
  | fetched => exact .inl ⟨1, rfl⟩
  | trailingOutOfBounds _ n => exact .inl ⟨n, rfl⟩
  | applied v _ hs hv he => exact .inr ⟨hs, v, hv, he⟩
  | _ => exact .inl ⟨0, s.regs.advance_zero.symm⟩

/-! ### What an error and a Fetch tick leave -/

@[simp] theorem State.aborted_errored (s : State) (e : EngineError) : (s.aborted e).errored = true := rfl

@[simp] theorem State.fetched_errored (s : State) : s.fetched.errored = false := rfl

@[simp] theorem State.fetched_regs (s : State) : s.fetched.regs = s.regs.advance 1 := rfl

/-! ### The host's bulk read -/

/-- A bulk read within the capacity succeeds with the bytes there (20_memory.md R42). -/
theorem State.hostLoad_in {M : MemId} {addr count : Nat} (h : addr + count ≤ (s.mem M).cap) :
    s.hostLoad M addr count = .ok ((s.mem M).bytesFrom addr count) := by
  simp [State.hostLoad, Memory.load, Memory.inBounds, h, hostResult]

end Sys2Proof.Machine

namespace Sys2Proof.Claims

open Sys2Proof.Machine

/-- Settles O1: a pair's read is the view of its two constituents. -/
theorem pairReadPutsHighInTheLowByte : Obligations.PairReadPutsHighInTheLowByte :=
  fun g _ _ _ h => g.read16_pair h

/-- Settles O2: a pair's write is the writes of its two constituents, which are different registers. -/
theorem pairWriteSplitsTheValue : Obligations.PairWriteSplitsTheValue := by
  intro g p high low v h
  refine ⟨?_, ?_, fun reg => g.read8_write16_pair_other h v, ?_⟩
  · rw [g.write16_pair h, Regs.read8_write8_other _ _ (pairHalves_ne h), Regs.read8_write8_same]
    rfl
  · rw [g.write16_pair h, Regs.read8_write8_same]
    rfl
  · constructor <;> simp [g.write16_pair h]

/-- Settles O3: after each write the pair is still the view of its constituents, which are different registers. -/
theorem pairViewsAreBidirectional : Obligations.PairViewsAreBidirectional := by
  intro g p high low h
  have hne := pairHalves_ne h
  refine ⟨fun v => g.read16_write16_same p v, fun hi lo => ?_, fun hi => ?_, fun lo => ?_⟩ <;>
    simp [Regs.read16_pair _ h, Regs.read8_write8, hne, hne.symm, pairValue]

/-- Settles O4, from what each kind of write leaves of each kind of register. -/
theorem trueRegistersAreIndependentStorage : Obligations.TrueRegistersAreIndependentStorage := fun g =>
  ⟨⟨rfl, rfl, rfl, rfl⟩,
    fun p v hp => ⟨g.read16_write16_same p v, fun _ hq hne => g.read16_write16_other hq hne v, g.read8_write16_true hp v⟩,
    g.oneByteWritten_write8⟩

/-- Settles O5: the advance is an addition of 16-bit words. -/
theorem pcAdvanceWraps : Obligations.PcAdvanceWraps := by
  intro g n
  refine ⟨?_, g.advance_read8 n, g.advance_read16 n (p := .sp) nofun, g.advance_read16 n (p := .ix) nofun,
    g.advance_read16 n (p := .iy) nofun⟩
  simp [BitVec.toNat_add]

/-- Settles O10: a window within the capacity is the bulk read of its bytes. -/
theorem snapshotShowsRegistersPairsAndWindow : Obligations.SnapshotShowsRegistersPairsAndWindow := by
  intro s M addr count h
  refine ⟨_, by rw [State.snapshot, State.hostLoad_in h]; rfl, rfl, rfl, rfl, rfl, rfl,
    (s.mem M).bytesFrom_length addr count, fun k => (s.mem M).bytesFrom_getElem addr count⟩

/-- Settles O47: PC's advance changes no other register, and an applied operation changes only the destination it names. -/
theorem registersChangeOnlyAsNamedDestinations : Obligations.RegistersChangeOnlyAsNamedDestinations := by
  intro s t h
  obtain ⟨n, hregs⟩ | ⟨hs, v, hv, he⟩ := step_regs_cases h
  · exact ⟨fun reg hne => absurd (hregs ▸ s.regs.advance_read8 n reg) hne,
      fun p _ hpc hne => absurd (hregs ▸ s.regs.advance_read16 n hpc) hne⟩
  · refine ⟨fun reg hne => ⟨hs, v, hv, he.destination_of_read8_ne ?_⟩,
      fun p hp hpc hne => ⟨hs, v, hv, he.destination_of_read16_ne hp ?_⟩⟩
    · rwa [State.advance_regs, Regs.advance_read8]
    · rwa [State.advance_regs, Regs.advance_read16 _ _ hpc]

/-- Settles O48: each stage's advance of PC, and of the operations only a Load to PC writes it beyond that. -/
theorem pcMovesOnlyByFetchingOrLoadPc : Obligations.PcMovesOnlyByFetchingOrLoadPc := by
  intro s t h
  cases step_cases h with
  | fetched hs => simp [hs]
  | fetchOutOfBounds hs => simp [hs]
  | hit _ _ hs => simp [hs]
  | miss _ hs => simp [hs]
  | writeback hs => simp [hs]
  | trailingOutOfBounds v n hs hv hn =>
    exact ⟨by simp [hs], by simp [hs], fun _ => ⟨v, hv, .inl ⟨n, hn, rfl, s.regs.advance_pc n⟩⟩⟩
  | applied v _ hs hv he =>
    refine ⟨by simp [hs], by simp [hs], fun _ => ⟨v, hv, .inr ?_⟩⟩
    by_cases hpc : t.regs.pc = (s.advance v.kind.trailing).regs.pc
    · exact .inl (hpc.trans (s.regs.advance_pc _))
    · exact .inr (he.destination_of_read16_ne (p := .pc) rfl hpc)

end Sys2Proof.Claims
end

section
/-! PROOFS. The two memories (spec/20_memory.md): each access within the capacity and beyond it (R39 to R43), the bytes
a write leaves, and what the host's accesses reach (R57); then what a step does to memory: only a store writes it, at
its effective address (R44, R55), and every OutOfBounds names an engine address past a capacity (R46). -/

namespace Sys2Proof.Machine

/-! ### Two-byte and bulk accesses within the capacity and beyond it -/

/-- A read of two bytes is in bounds and gives them big-endian, or it is out of bounds (20_memory.md R40, R43). -/
theorem Memory.get2_eq (m : Memory) (addr : Nat) :
    m.get2 addr = if addr + 1 < m.cap then
      some ((m.byteAt addr).setWidth 16 <<< 8 ||| (m.byteAt (addr + 1)).setWidth 16) else none := by
  simp [Memory.get2]

/-- A write of two bytes is in bounds and sets both, or it is out of bounds (20_memory.md R41, R43). -/
theorem Memory.set2_eq (m : Memory) (addr : Nat) (v : Word) :
    m.set2 addr v = if addr + 1 < m.cap then
      some ((m.setByte addr ((v >>> 8).setWidth 8)).setByte (addr + 1) (v.setWidth 8)) else none := by
  simp [Memory.set2]

/-- A bulk read is in bounds and gives the bytes, or it is out of bounds (20_memory.md R42, R43). -/
theorem Memory.load_eq (m : Memory) (addr count : Nat) :
    m.load addr count = if addr + count ≤ m.cap then some (m.bytesFrom addr count) else none := by
  simp [Memory.load, Memory.inBounds]

/-- A bulk write is in bounds and sets the bytes, or it is out of bounds (20_memory.md R42, R43). -/
theorem Memory.store_eq (m : Memory) (addr : Nat) (bytes : List Byte) :
    m.store addr bytes = if addr + bytes.length ≤ m.cap then some (m.setBytes addr bytes) else none := by
  simp [Memory.store, Memory.inBounds]

/-! ### The bytes a write leaves -/

/-- The two bytes of a big-endian write, read big-endian, are the value (20_memory.md R40, R41). -/
theorem bigEndian_halves (v : Word) :
    ((v >>> 8).setWidth 8).setWidth 16 <<< 8 ||| (v.setWidth 8).setWidth 16 = v :=
  (BitVec.or_comm _ _).trans (pairValue_halves v)

/-- What a successful two-byte write leaves: both bytes, every other byte, and the capacity (20_memory.md R41). -/
theorem Memory.set2_spec {m m' : Memory} (wf : m.wf) {addr : Nat} {v : Word} (h : m.set2 addr v = some m') :
    m'.cap = m.cap ∧ m'.byteAt addr = (v >>> 8).setWidth 8 ∧ m'.byteAt (addr + 1) = v.setWidth 8 ∧
      ∀ other, other ≠ addr → other ≠ addr + 1 → m'.byteAt other = m.byteAt other := by
  rw [Memory.set2_eq] at h
  split at h
  · rename_i lt
    cases h
    have wf' := Memory.setByte_wf wf (Nat.lt_of_succ_lt lt) ((v >>> 8).setWidth 8)
    refine ⟨rfl, ?_, Memory.byteAt_setByte_same wf' _ _, fun other h1 h2 => ?_⟩
    · rw [Memory.byteAt_setByte_other _ _ addr.lt_succ_self.ne, Memory.byteAt_setByte_same wf]
    · rw [Memory.byteAt_setByte_other _ _ h2, Memory.byteAt_setByte_other _ _ h1]
  · cases h

/-- A bulk write changes no byte outside its block (20_memory.md R42). -/
theorem Memory.byteAt_setBytes_outside (m : Memory) {addr other : Nat} {bytes : List Byte}
    (h : other < addr ∨ addr + bytes.length ≤ other) : (m.setBytes addr bytes).byteAt other = m.byteAt other := by
  induction bytes generalizing m addr with
  | nil => rfl
  | cons b rest ih =>
    simp only [List.length_cons] at h
    rw [Memory.setBytes, ih _ (by omega), Memory.byteAt_setByte_other _ _ (by omega)]

/-- A bulk write within the capacity places each byte at its address (20_memory.md R42). -/
theorem Memory.byteAt_setBytes_inside {m : Memory} (wf : m.wf) {addr : Nat} {bytes : List Byte}
    (h : addr + bytes.length ≤ m.cap) {k : Nat} (hk : k < bytes.length) :
    (m.setBytes addr bytes).byteAt (addr + k) = bytes[k] := by
  induction bytes generalizing m addr k with
  | nil => cases hk
  | cons b rest ih =>
    simp only [List.length_cons] at h
    cases k with
    | zero =>
      have hfirst := (m.setByte addr b).byteAt_setBytes_outside (bytes := rest) (.inl addr.lt_succ_self)
      exact hfirst.trans (Memory.byteAt_setByte_same wf addr b)
    | succ k =>
      have haddr : addr + (k + 1) = addr + 1 + k := by omega
      have hrest : addr + 1 + rest.length ≤ (m.setByte addr b).cap := by rw [Memory.setByte_cap]; omega
      rw [haddr, Memory.setBytes, List.getElem_cons_succ]
      exact ih (Memory.setByte_wf wf (by omega) b) hrest (Nat.lt_of_succ_lt_succ hk)

/-- A bulk read gives back the bytes of a bulk write within the capacity (20_memory.md R42). -/
theorem Memory.bytesFrom_setBytes {m : Memory} (wf : m.wf) {addr : Nat} {bytes : List Byte}
    (h : addr + bytes.length ≤ m.cap) : (m.setBytes addr bytes).bytesFrom addr bytes.length = bytes := by
  refine List.ext_getElem (Memory.bytesFrom_length ..) fun k _ hk => ?_
  rw [Memory.bytesFrom_getElem, Memory.byteAt_setBytes_inside wf h hk]

/-! ### Host accesses: the bounds check of every one of them, and what a write reaches -/

section

variable {s : State} {M : MemId} {m : Memory} {addr width : Nat}

/-- A host access within the capacity succeeds (20_memory.md R43, R57). -/
theorem hostResult_in {α : Type} (h : addr + width ≤ m.cap) (v : α) :
    hostResult M addr width (if m.inBounds addr width then some v else none) = .ok v := by
  simp [Memory.inBounds, h, hostResult]

/-- A host access beyond the capacity is OutOfBounds, with the access recorded (20_memory.md R43, 60_exceptions.md
R134). -/
theorem hostResult_out {α : Type} (h : m.cap < addr + width) (v : α) :
    hostResult M addr width (if m.inBounds addr width then some v else none) = .error (.outOfBounds M addr width) := by
  simp [Memory.inBounds, Nat.not_le.mpr h, hostResult]

/-- Before the first tick a host write is the memory access, put in place of the memory named (20_memory.md R57). -/
theorem State.hostWrite_before (hn : s.lastResult = none) (r : Option Memory) :
    s.hostWrite M addr width r = (hostResult M addr width r).map (s.setMem M) := by
  simp [State.hostWrite, hn]

/-- After a tick a host write is refused, whatever it would give (20_memory.md R57). -/
theorem State.hostWrite_after (h : s.lastResult ≠ none) (r : Option Memory) :
    s.hostWrite M addr width r = .error .writeDuringRun := by
  obtain ⟨result, h⟩ := Option.ne_none_iff_exists'.mp h
  simp [State.hostWrite, h]

theorem State.hostWrite_out (hn : s.lastResult = none) (h : m.cap < addr + width) (m' : Memory) :
    s.hostWrite M addr width (if m.inBounds addr width then some m' else none) =
      .error (.outOfBounds M addr width) := by
  rw [State.hostWrite_before hn, hostResult_out h]
  rfl

theorem State.hostWrite_in (hn : s.lastResult = none) (h : addr + width ≤ m.cap) (m' : Memory) :
    s.hostWrite M addr width (if m.inBounds addr width then some m' else none) = .ok (s.setMem M m') := by
  rw [State.hostWrite_before hn, hostResult_in h]
  rfl

/-- Replacing one memory leaves everything else (10_state.md R34). -/
theorem State.setMem_onlyMemory (s : State) (M : MemId) (m : Memory) : Claims.OnlyMemory M s (s.setMem M m) := by
  cases M <;> exact ⟨fun _ => s.mem_setMem_other m, rfl, rfl, rfl, rfl, rfl, rfl, rfl⟩

/-- A host write within the capacity replaces the memory named, by what the access gives, and nothing else
(20_memory.md R57, 10_state.md R34). -/
theorem State.hostWrite_reaches (hn : s.lastResult = none) (h : addr + width ≤ m.cap) (m' : Memory) :
    ∃ t, s.hostWrite M addr width (if m.inBounds addr width then some m' else none) = .ok t ∧
      (if m.inBounds addr width then some m' else none) = some (t.mem M) ∧ Claims.OnlyMemory M s t := by
  refine ⟨_, State.hostWrite_in hn h m', ?_, s.setMem_onlyMemory M m'⟩
  simp [Memory.inBounds, h]

end

/-! ### A row's meaning is its operation's -/

/-- Each row of REF_TABLE means what operand resolution makes of its operation and its bytes (41_operands.md R102). -/
theorem exec_eq_applyOperation (i : Instr) (s : State) :
    exec i s = applyOperation i.template.operation i.trailing s := by
  cases i with
  | ld_BC_nn nn => exact congrArg (loadReg16Imm .bc · s) (imm16_halves nn).symm
  | ld_DE_nn nn => exact congrArg (loadReg16Imm .de · s) (imm16_halves nn).symm
  | ld_HL_nn nn => exact congrArg (loadReg16Imm .hl · s) (imm16_halves nn).symm
  | ld_SP_nn nn => exact congrArg (loadReg16Imm .sp · s) (imm16_halves nn).symm
  | ld_atNN_A nn => exact congrArg (storeMemReg · .a s) (imm16_halves nn).symm
  | ld_A_atNN nn => exact congrArg (loadRegMem .a · s) (imm16_halves nn).symm
  | _ => rfl

theorem applyFetched_eq_applyOperation (op : Operation) (tr : Trailing) (s : State) :
    applyFetched op tr s = applyOperation op tr s := by
  unfold applyFetched
  split
  · rename_i i hi
    obtain ⟨htemplate, htrailing⟩ := Instr.ofFetched_eq_some hi
    rw [exec_eq_applyOperation, htemplate, htrailing]
  · rfl

/-! ### Only a store writes data memory, at its effective address -/

variable {s t : State} {op : Operation} {tr : Trailing}

theorem Effect.store_of_dmem_ne (h : Effect op s t) (hne : t.dmem ≠ s.dmem) :
    ∃ a reg, op = .load (.mem a) (.r8 reg) := by
  cases h with
  | store a reg _ hop => exact ⟨a, reg, hop⟩
  | _ => exact absurd rfl hne

theorem byteAt_of_storeMemReg {ea : Word} {reg : Reg8} (h : storeMemReg ea reg s = .next t) {addr : Nat}
    (hne : t.dmem.byteAt addr ≠ s.dmem.byteAt addr) : ea.toNat = addr := by
  rcases Nat.lt_or_ge ea.toNat s.dmem.cap with hea | hea
  · rw [storeMemReg_in hea] at h
    cases h
    by_contra hother
    exact hne (s.dmem.byteAt_setByte_other _ (Ne.symm hother))
  · rw [storeMemReg_out hea] at h
    cases h
    exact absurd rfl hne

/-- A Load from a register to `Mem(a)` changes no byte of data memory but the one at its effective address
(41_operands.md R102, form L5). -/
theorem effectiveAddress_of_store {a : Operand} {reg : Reg8} (h : applyLoad tr (.mem a) (.r8 reg) s = .next t)
    {addr : Nat} (hne : t.dmem.byteAt addr ≠ s.dmem.byteAt addr) :
    (effectiveAddress s tr a).map (·.toNat) = some addr := by
  cases hea : effectiveAddress s tr a with
  | none =>
    simp only [applyLoad, loadForm, hea, Option.map_none, unsupported, raise] at h
    cases h
    exact absurd rfl hne
  | some ea =>
    simp only [applyLoad, loadForm, hea, Option.map_some, performLoad, resolve8] at h
    exact congrArg some (byteAt_of_storeMemReg h hne)

/-- An operation that changes a byte of data memory is a store to that byte. -/
theorem store_of_applyFetched (h : applyFetched op tr s = .next t) {addr : Nat}
    (hne : t.dmem.byteAt addr ≠ s.dmem.byteAt addr) :
    ∃ a reg, op = .load (.mem a) (.r8 reg) ∧ (effectiveAddress s tr a).map (·.toNat) = some addr := by
  rw [applyFetched_eq_applyOperation] at h
  obtain ⟨t', ht', he⟩ := applyOperation_effect op tr s
  cases h.symm.trans ht'
  obtain ⟨a, reg, rfl⟩ := he.store_of_dmem_ne fun heq => hne (by rw [heq])
  exact ⟨a, reg, rfl, effectiveAddress_of_store h hne⟩

/-- A step that changes data memory is an Exec tick that applies its operation after a complete trailing fetch. -/
theorem step_applied_of_dmem_ne (h : step s = .next t) (hne : t.dmem ≠ s.dmem) :
    s.stage = .exec ∧ ∃ v tr s1, s.current = some v ∧ fetchTrailing v.kind s = .ok (tr, s1) ∧ s1.dmem = s.dmem ∧
      applyFetched v.operation tr s1 = .next t := by
  cases step_cases h with
  | applied v _ hs hv =>
    rw [step_exec hs] at h
    simp only [tickExec, hv] at h
    split at h
    · rename_i tr s1 hf
      obtain ⟨-, rfl⟩ := fetchTrailing_ok hf
      exact ⟨hs, v, tr, _, hv, hf, rfl, h⟩
    · rename_i e s1 hf
      obtain ⟨n, -, rfl, -, -⟩ := fetchTrailing_error hf
      cases h
      exact absurd rfl hne
  | _ => exact absurd rfl hne

/-! ### What a tick answers -/

/-- Every tick writes its answer (40_cycle.md R78). -/
theorem step_answers (h : step s = .next t) : t.lastResult ≠ none := by
  cases step_cases h with
  | applied _ _ _ _ he => cases he <;> nofun
  | _ => nofun

/-- An OutOfBounds of a tick is of one byte, at an address the engine forms in 16 bits, past the capacity of the memory
it names (20_memory.md R43, R46). -/
theorem step_outOfBounds (h : step s = .next t) {M : MemId} {addr width : Nat}
    (he : t.lastResult = some (.err (.outOfBounds M addr width))) :
    (s.mem M).cap ≤ addr ∧ addr < 65536 ∧ width = 1 := by
  cases step_cases h with
  | fetchOutOfBounds _ hcap => cases he; exact ⟨hcap, s.regs.pc.isLt, rfl⟩
  | trailingOutOfBounds v n _ _ _ hcap => cases he; exact ⟨hcap, (s.advance n).regs.pc.isLt, rfl⟩
  | applied v _ _ _ heffect =>
    cases heffect with
    | dataOutOfBounds ea hcap => cases he; exact ⟨hcap, ea.isLt, rfl⟩
    | _ => cases he
  | _ => cases he

end Sys2Proof.Machine

namespace Sys2Proof.Claims

open Sys2Proof.Machine

/-- Settles O6, from what each write leaves of every byte. -/
theorem memoryRoundTrip : Obligations.MemoryRoundTrip := by
  intro m addr wf
  refine ⟨fun v h => ?_, fun v h => ?_⟩
  · have hset : m.set1 addr v = some (m.setByte addr v) := by rw [Memory.set1_eq, if_pos h]
    obtain ⟨hcap, hbyte, hothers⟩ := Memory.set1_spec wf hset
    refine ⟨_, hset, hcap, ?_, hbyte, hothers⟩
    rw [Memory.get1_eq, hcap, if_pos h, hbyte]
  · have hset := (m.set2_eq addr v).trans (if_pos h)
    obtain ⟨hcap, hfirst, hsecond, hothers⟩ := Memory.set2_spec wf hset
    refine ⟨_, hset, hcap, ?_, hfirst, hsecond, hothers⟩
    rw [Memory.get2_eq, hcap, if_pos h, hfirst, hsecond, bigEndian_halves]

/-- Settles O7: every host access is one bounds check, and the engine's data access makes the same check. -/
theorem accessOutsideCapacityFails : Obligations.AccessOutsideCapacityFails := by
  intro s M addr
  refine ⟨fun h => ⟨hostResult_out h _, ?_, fun v => ⟨?_, fun hn => State.hostWrite_out hn h _⟩⟩,
    fun h => ⟨hostResult_out h _, fun v hn => State.hostWrite_out hn h _⟩,
    fun count h => ⟨hostResult_out h _, ?_⟩,
    fun h => ⟨⟨_, hostResult_in h _⟩, fun v hn => ⟨_, State.hostWrite_in hn h _⟩⟩,
    fun h => ⟨⟨_, hostResult_in h _⟩, fun v hn => ⟨_, State.hostWrite_in hn h _⟩⟩,
    fun count h => ⟨⟨_, State.hostLoad_in h⟩, ?_⟩⟩
  · rw [State.memRead_eq, if_neg (by omega)]
  · rw [State.memWrite_eq, if_neg (by omega)]
  · rintro bytes rfl hn
    exact State.hostWrite_out hn h _
  · rintro bytes rfl hn
    exact ⟨_, State.hostWrite_in hn h _⟩

/-- Settles O8, from what a bulk write leaves inside its block and outside it. -/
theorem bulkStoreThenLoad : Obligations.BulkStoreThenLoad := by
  intro m addr bytes wf h
  have hcap := m.setBytes_cap addr bytes
  refine ⟨_, (m.store_eq addr bytes).trans (if_pos h), hcap, ?_,
    fun k hk => Memory.byteAt_setBytes_inside wf h hk, fun other => m.byteAt_setBytes_outside⟩
  rw [Memory.load_eq, hcap, if_pos h, Memory.bytesFrom_setBytes wf h]

/-- Settles O49: a byte that changes was written by the store that the Exec tick applied, at its effective address. -/
theorem memoryIsWrittenOnlyByStores : Obligations.MemoryIsWrittenOnlyByStores := by
  intro s t h
  refine ⟨step_keeps_imem h, fun addr hne => ?_⟩
  obtain ⟨hs, v, tr, s1, hv, hf, hdmem, happlied⟩ := step_applied_of_dmem_ne h fun heq => hne (by rw [heq])
  obtain ⟨a, reg, hop, hea⟩ := store_of_applyFetched happlied (hdmem ▸ hne)
  exact ⟨hs, v, a, reg, tr, s1, hv, hop, hf, hea⟩

/-- Settles O58: an OutOfBounds would name a 16-bit address past a capacity of 65536 or more. -/
theorem largeCapacitiesRaiseNoOutOfBounds : Obligations.LargeCapacitiesRaiseNoOutOfBounds := by
  intro s t himem hdmem h M addr width he
  obtain ⟨hcap, haddr, -⟩ := step_outOfBounds h he
  have hlarge : 65536 ≤ (s.mem M).cap := by cases M <;> assumption
  omega

/-- Settles O60: a host access within the capacity gives what the memory's own access gives, and a write puts it in
place. -/
theorem hostAccessesReachTheNamedMemory : Obligations.HostAccessesReachTheNamedMemory := by
  intro s M addr
  refine ⟨fun h => ⟨hostResult_in h _, fun v hn => State.hostWrite_reaches hn h _⟩,
    fun h => ⟨hostResult_in h _, fun v hn => State.hostWrite_reaches hn h _⟩,
    fun count h => ⟨⟨_, State.hostLoad_in h, (s.mem M).bytesFrom_length addr count,
      fun k => (s.mem M).bytesFrom_getElem addr count⟩, ?_⟩⟩
  rintro bytes rfl hn
  exact State.hostWrite_reaches hn h _

/-- Settles O9: every tick leaves an answer, and with one a host write is refused. -/
theorem hostWritesOnlyBeforeTheFirstTick : Obligations.HostWritesOnlyBeforeTheFirstTick := fun _ _ _ _ h =>
  ⟨fun _ => State.hostWrite_after (step_answers h) _, fun _ => State.hostWrite_after (step_answers h) _,
    fun _ => State.hostWrite_after (step_answers h) _⟩

end Sys2Proof.Claims
end

section
/-! PROOFS. Instruction encoding (spec/30_encoding.md): the opcode's bit fields, immediates and displacements (R60, R65,
R66); REF_TABLE and its rows (R69, R71); that decoding and encoding are inverse (R58, R59, R76); and what a decode table
that passes the checks of R74 rules out. -/

namespace Sys2Proof

/-! ### Bit fields, immediates and displacements as numbers -/

theorem fieldX_toNat (b : Byte) : (fieldX b).toNat = (b.toNat >>> 6) &&& 3 :=
  (BitVec.toNat_setWidth ..).trans (Nat.mod_eq_of_lt (Nat.and_lt_two_pow _ (by decide)))

theorem fieldY_toNat (b : Byte) : (fieldY b).toNat = (b.toNat >>> 3) &&& 7 :=
  (BitVec.toNat_setWidth ..).trans (Nat.mod_eq_of_lt (Nat.and_lt_two_pow _ (by decide)))

theorem fieldZ_toNat (b : Byte) : (fieldZ b).toNat = b.toNat &&& 7 :=
  (BitVec.toNat_setWidth ..).trans (Nat.mod_eq_of_lt (Nat.and_lt_two_pow _ (by decide)))

/-- The shifted high byte and the low byte share no bit, so joining them adds them. -/
theorem imm16_toNat (first second : Byte) : (imm16 first second).toNat = second.toNat * 256 + first.toNat := by
  have hshift : second.toNat * 2 ^ 8 < 2 ^ 16 := by omega
  have hjoin := Nat.shiftLeft_add_eq_or_of_lt first.isLt second.toNat
  rw [Nat.shiftLeft_eq] at hjoin
  simp (disch := omega) only [imm16, BitVec.toNat_or, BitVec.toNat_shiftLeft, BitVec.toNat_setWidth, Nat.shiftLeft_eq,
    Nat.mod_eq_of_lt, ← hjoin]

theorem displacement_toInt (d : Byte) : (displacement d).toInt = d.toInt :=
  BitVec.toInt_signExtend_of_le (by decide)

/-! ### REF_TABLE and its rows -/

/-- Trailing bytes of this kind, all zero: any would do to name a row by its Instruction value. -/
def Trailing.zero : Kind → Trailing
  | .noOperand => .noOperand
  | .n => .n 0
  | .nn => .nn 0 0
  | .displacement => .displacement 0

@[simp] theorem Trailing.kind_zero (k : Kind) : (Trailing.zero k).kind = k := by cases k <;> rfl

theorem lookup_opcode (i : Instr) : DecodeTable.lookup refTable i.opcode = some i.template := by
  cases i <;> dsimp only [Instr.opcode, Instr.template] <;> rfl

/-- An entry of REF_TABLE is its byte's row: the Instruction value alone names a row, of that value and that opcode. -/
theorem row_of_lookup {b : Byte} {v : Instruction} (h : DecodeTable.lookup refTable b = some v) :
    ∃ i, Instr.ofFetched v.operation (.zero v.kind) = some i ∧ i.opcode = b ∧ i.template = v := by
  have named : ∀ b : Byte, ∀ v ∈ refEntry (fieldX b) (fieldZ b) (fieldY b),
      (Instr.ofFetched v.operation (.zero v.kind)).map Instr.opcode = some b := by decide
  obtain ⟨i, hrow, hopcode⟩ := Option.map_eq_some_iff.mp (named b v (lookup_refTable b ▸ h))
  exact ⟨i, hrow, hopcode, by rw [(Instr.ofFetched_eq_some hrow).1, Trailing.kind_zero]⟩

/-- No two opcodes of REF_TABLE hold the same Instruction value. -/
theorem lookup_refTable_injective {b b' : Byte} {v : Instruction} (h : DecodeTable.lookup refTable b = some v)
    (h' : DecodeTable.lookup refTable b' = some v) : b = b' := by
  obtain ⟨i, hrow, rfl, -⟩ := row_of_lookup h
  obtain ⟨j, hrow', rfl, -⟩ := row_of_lookup h'
  rw [Option.some.inj (hrow.symm.trans hrow')]

theorem lookup_eq_template_iff {b : Byte} {i : Instr} :
    DecodeTable.lookup refTable b = some i.template ↔ b = i.opcode :=
  ⟨fun h => lookup_refTable_injective h (lookup_opcode i), fun h => h ▸ lookup_opcode i⟩

/-! ### How many opcodes have an entry -/

/-- REF_TABLE has an entry at this opcode. -/
def hasEntry (opcode : Nat) : Bool := (DecodeTable.lookup refTable (BitVec.ofNat 8 opcode)).isSome

/-- The entries of each plane x of REF_TABLE, 64 opcodes at a time (30_encoding.md R60, R69). -/
theorem count_hasEntry_planes :
    Nat.count (fun n => hasEntry n) 64 = 25 ∧ Nat.count (fun n => hasEntry (64 + n)) 64 = 63 ∧
    Nat.count (fun n => hasEntry (64 + 64 + n)) 64 = 8 ∧ Nat.count (fun n => hasEntry (64 + 64 + 64 + n)) 64 = 2 := by
  simp only [hasEntry, lookup_refTable]
  decide

theorem length_filter_hasEntry : ((List.range 256).filter hasEntry).length = 98 := by
  obtain ⟨h0, h1, h2, h3⟩ := count_hasEntry_planes
  have hcount : Nat.count (fun n => hasEntry n) (64 + 64 + 64 + 64) = 98 := by
    rw [Nat.count_add, Nat.count_add, Nat.count_add, h0, h1, h2, h3]
  simpa [Nat.count, List.countP_eq_length_filter] using hcount

/-- The opcodes without an entry are the rest of the 256. -/
theorem length_filter_not_hasEntry : ((List.range 256).filter (!hasEntry ·)).length = 158 := by
  have hsplit := List.length_eq_length_filter_add (l := List.range 256) hasEntry
  rw [length_filter_hasEntry, List.length_range] at hsplit
  omega

/-! ### The decoder and the encoder -/

/-- Decoding by any table reads a row exactly from an opcode whose entry is the row's Instruction value, followed by the
row's trailing bytes. -/
theorem decodeWith_cons_eq_row_iff {table : DecodeTable} {b : Byte} {bytes rest : List Byte} {i : Instr} :
    decodeWith table (b :: bytes) = .row i rest ↔
      DecodeTable.lookup table b = some i.template ∧ bytes = i.trailing.bytes ++ rest := by
  constructor
  · intro h
    simp only [decodeWith] at h
    split at h
    · cases h
    · rename_i v hv
      split at h
      · cases h
      · rename_i t rest' ht
        split at h <;> cases h
        obtain ⟨hkind, rfl⟩ := takeTrailing_eq_some ht
        obtain ⟨htemplate, rfl⟩ := Instr.ofFetched_eq_some ‹_›
        rw [hv, htemplate, hkind]
        exact ⟨rfl, rfl⟩
  · rintro ⟨hv, rfl⟩
    obtain ⟨hkind, hrow⟩ := Laws.Fetched.all i
    simp only [decodeWith, hv, ← hkind, takeTrailing_append, hrow]

theorem decode_eq_row_iff {bytes rest : List Byte} {i : Instr} :
    decode bytes = .row i rest ↔ bytes = encode i ++ rest := by
  cases bytes with
  | nil => exact ⟨nofun, nofun⟩
  | cons b bytes =>
    rw [decode, decodeWith_cons_eq_row_iff, lookup_eq_template_iff, encode, List.cons_append, List.cons.injEq]

theorem decode_cons_eq_miss_iff {b : Byte} {rest : List Byte} :
    decode (b :: rest) = .miss b rest ↔ DecodeTable.lookup refTable b = none := by
  constructor
  · intro h
    simp only [decode, decodeWith] at h
    split at h
    · assumption
    · split at h
      · cases h
      · split at h <;> cases h
  · intro h
    simp only [decode, decodeWith, h]

namespace Machine

/-! ### Admitted forms are the ones resolved -/

/-- `Mem(a)` has an effective address exactly under the kinds the check names (41_operands.md R98 to R101). -/
theorem effectiveAddress_isSome (s : State) (tr : Trailing) (a : Operand) :
    (effectiveAddress s tr a).isSome = a.hasAddress tr.kind := by
  match a with
  | .reg16 (.named p) =>
    cases hp : p.isIndex <;> cases tr <;> simp [effectiveAddress, Operand.hasAddress, Trailing.kind, hp]
  | .reg16 (.raw _) => cases tr <;> rfl
  | .reg _ => cases tr <;> rfl
  | .mem _ => cases tr <;> rfl
  | .imm8 => cases tr <;> rfl
  | .imm16 => cases tr <;> rfl

/-- A Load is resolved to a form exactly if the check admits it (41_operands.md R102). -/
theorem loadForm_isSome (s : State) (tr : Trailing) (dst src : Operand) :
    (loadForm s tr dst src).isSome = dst.admittedLoad tr.kind src := by
  cases dst with
  | reg d =>
    cases src with
    | mem a => simp [loadForm, Operand.admittedLoad, effectiveAddress_isSome]
    | _ => cases tr <;> rfl
  | mem a =>
    cases src with
    | reg r => simp [loadForm, Operand.admittedLoad, effectiveAddress_isSome]
    | _ => rfl
  | reg16 p => cases src <;> cases tr <;> rfl
  | imm8 => rfl
  | imm16 => rfl

/-! ### What an admitted Load answers -/

/-- The answer is a next state without UnsupportedOperandForm. -/
def Answer.Supported (a : Answer) : Prop := ∃ t, a = .next t ∧ t.lastResult ≠ some (.err .unsupportedOperandForm)

variable {s t : State}

theorem complete_supported (s : State) : Answer.Supported (complete s) := ⟨_, rfl, nofun⟩

theorem registerNotFound_supported (s : State) : Answer.Supported (raise .registerNotFound s) := ⟨_, rfl, nofun⟩

theorem outOfBounds_supported (M : MemId) (addr width : Nat) (s : State) :
    Answer.Supported (raise (.outOfBounds M addr width) s) := ⟨_, rfl, nofun⟩

theorem loadRegMem_supported (dst : Reg8) (ea : Word) (s : State) : Answer.Supported (loadRegMem dst ea s) := by
  rcases Nat.lt_or_ge ea.toNat s.dmem.cap with hea | hea
  · exact loadRegMem_in hea ▸ complete_supported _
  · exact loadRegMem_out hea ▸ outOfBounds_supported ..

theorem storeMemReg_supported (ea : Word) (src : Reg8) (s : State) : Answer.Supported (storeMemReg ea src s) := by
  rcases Nat.lt_or_ge ea.toNat s.dmem.cap with hea | hea
  · exact storeMemReg_in hea ▸ complete_supported _
  · exact storeMemReg_out hea ▸ outOfBounds_supported ..

/-- Once a Load has one of the forms L1 to L5, it completes or raises another error: a raw selector's or the data
access's (41_operands.md R103). -/
theorem performLoad_supported (form : LoadForm) (s : State) : Answer.Supported (performLoad form s) := by
  match form with
  | .regReg (.named _) (.named _) => exact complete_supported _
  | .regReg (.named _) (.raw _) => exact registerNotFound_supported s
  | .regReg (.raw _) (.named _) => exact registerNotFound_supported s
  | .regReg (.raw _) (.raw _) => exact registerNotFound_supported s
  | .regImm (.named _) _ => exact complete_supported _
  | .regImm (.raw _) _ => exact registerNotFound_supported s
  | .reg16Imm (.named _) _ => exact complete_supported _
  | .reg16Imm (.raw _) _ => exact registerNotFound_supported s
  | .regMem (.named dst) ea => exact loadRegMem_supported dst ea s
  | .regMem (.raw _) _ => exact registerNotFound_supported s
  | .memReg ea (.named src) => exact storeMemReg_supported ea src s
  | .memReg _ (.raw _) => exact registerNotFound_supported s

/-- An entry whose Load is admitted, applied to trailing bytes of its kind, if it is no Add. -/
theorem applyOperation_supported {v : Instruction} {tr : Trailing} (hkind : tr.kind = v.kind)
    (hadmitted : v.loadAdmitted = true) (hadd : ∀ lhs rhs, v.operation ≠ .add lhs rhs) (s : State) :
    Answer.Supported (applyOperation v.operation tr s) := by
  cases hop : v.operation with
  | nop => exact complete_supported s
  | load dst src =>
    have hform : (loadForm s tr dst src).isSome = true := by
      rw [loadForm_isSome, hkind]
      simpa [Instruction.loadAdmitted, hop] using hadmitted
    obtain ⟨form, hform⟩ := Option.isSome_iff_exists.mp hform
    simpa only [applyOperation, applyLoad, hform] using performLoad_supported form s
  | add lhs rhs => exact absurd hop (hadd lhs rhs)

/-! ### Where a step's form and selector errors come from -/

/-- The Exec tick applies the current instruction's operation to bytes of its kind, or its trailing fetch fails. -/
theorem step_exec_cases (hs : s.stage = .exec) {v : Instruction} (hv : s.current = some v) (h : step s = .next t) :
    (∃ tr, tr.kind = v.kind ∧ applyOperation v.operation tr (s.advance v.kind.trailing) = .next t) ∨
      ∃ n, t = (s.advance n).aborted (.outOfBounds .imem (s.advance n).regs.pc.toNat 1) := by
  rw [step_exec hs] at h
  simp only [tickExec, hv] at h
  split at h
  · rename_i tr s1 hf
    obtain ⟨hkind, rfl⟩ := fetchTrailing_ok hf
    exact .inl ⟨tr, hkind, applyFetched_eq_applyOperation .. ▸ h⟩
  · rename_i e s1 hf
    obtain ⟨n, -, rfl, -, rfl⟩ := fetchTrailing_error hf
    cases h
    exact .inr ⟨n, rfl⟩

theorem step_unsupported (h : step s = .next t) (he : t.lastResult = some (.err .unsupportedOperandForm)) :
    ∃ v tr s1, s.current = some v ∧ tr.kind = v.kind ∧ ¬ Answer.Supported (applyOperation v.operation tr s1) := by
  cases step_cases h with
  | applied v _ hs hv =>
    obtain ⟨tr, hkind, happly⟩ | ⟨n, rfl⟩ := step_exec_cases hs hv h
    · refine ⟨v, tr, s.advance v.kind.trailing, hv, hkind, ?_⟩
      rintro ⟨t', ht', hne⟩
      cases happly.symm.trans ht'
      exact hne he
    · cases he
  | _ => cases he

theorem step_registerNotFound (h : step s = .next t) (he : t.lastResult = some (.err .registerNotFound)) :
    ∃ v, s.current = some v ∧ v.selectorsValid = false := by
  cases step_cases h with
  | applied v _ _ hv heffect =>
    refine ⟨v, hv, ?_⟩
    cases heffect with
    | registerNotFound dst src hop hinvalid => simp [Instruction.selectorsValid, hop, hinvalid]
    | _ => cases he
  | _ => cases he

/-- A check that the placeholder and every entry of the table pass is passed by the current instruction. -/
theorem State.Inv.current_passes (inv : s.Inv) {ok : Instruction → Bool} (hplaceholder : ok .placeholder = true)
    (hall : DecodeTable.all s.table ok = true) {v : Instruction} (hv : s.current = some v) : ok v = true := by
  obtain rfl | ⟨b, hb⟩ := inv.fromTable v hv
  · exact hplaceholder
  · exact DecodeTable.lookup_of_all hall hb

end Machine

end Sys2Proof

namespace Sys2Proof.Claims

open Sys2Proof.Machine

/-- Settles O16: an instruction's bytes are what the decoder reads it from. -/
theorem decodeOfEncode : Obligations.DecodeOfEncode := fun _ _ => decode_eq_row_iff.mpr rfl

/-- Settles O17: the decoder reads an instruction from nothing but its bytes, and misses where the lookup does. -/
theorem encodeOfDecode : Obligations.EncodeOfDecode :=
  ⟨fun _ _ _ => decode_eq_row_iff.mp, fun _ _ => decode_cons_eq_miss_iff⟩

/-- Settles O14: the table at a row's opcode, and the row of an entry. -/
theorem refTableHoldsExactlyTheRows : Obligations.RefTableHoldsExactlyTheRows := by
  refine ⟨lookup_opcode, fun b v h => ?_⟩
  obtain ⟨i, -, hopcode, htemplate⟩ := row_of_lookup h
  exact ⟨i, hopcode, htemplate⟩

/-- Settles O12: the assembled value is the one both uses of a 16-bit immediate take. -/
theorem immediatesAssembleLowByteFirst : Obligations.ImmediatesAssembleLowByteFirst :=
  ⟨imm16_toNat, fun _ _ _ _ => ⟨rfl, rfl⟩, by decide⟩

/-- Settles O57: the current instruction passes the checks its table passes, so its Load has a form and its selectors
resolve. -/
theorem checkedTablesRaiseNoFormError : Obligations.CheckedTablesRaiseNoFormError := by
  refine ⟨fun s t inv h => ⟨fun hloads hadd he => ?_, fun hselectors he => ?_⟩, by decide⟩
  · obtain ⟨v, tr, s1, hv, hkind, hunsupported⟩ := step_unsupported h he
    have hadmitted := inv.current_passes rfl hloads hv
    exact hunsupported (applyOperation_supported hkind hadmitted (fun lhs rhs => hadd v lhs rhs hv) s1)
  · obtain ⟨v, hv, hinvalid⟩ := step_registerNotFound h he
    exact Bool.false_ne_true (hinvalid.symm.trans (inv.current_passes rfl hselectors hv))

/-- Settles O11: each field is the masked shift, which fits its width. -/
theorem opcodeFieldsAreTheBitFields : Obligations.OpcodeFieldsAreTheBitFields :=
  ⟨fun b => ⟨fieldX_toNat b, fieldY_toNat b, fieldZ_toNat b⟩, by decide⟩

/-- Settles O13: sign extension keeps the value of the byte, and with it the byte's range. -/
theorem displacementIsSigned : Obligations.DisplacementIsSigned := by
  intro d
  rw [displacement_toInt]
  exact ⟨rfl, d.le_toInt, Int.le_of_lt_add_one d.toInt_lt⟩

/-- Settles O15: the entries counted plane by plane, and the rest. -/
theorem refTableCounts : Obligations.RefTableCounts := by
  refine ⟨length_filter_hasEntry, ?_, by decide⟩
  simpa [hasEntry] using length_filter_not_hasEntry

/-- Settles O18: each row's word is its encoding, and 0x76 has no entry. -/
theorem writtenWordsDecode : Obligations.WrittenWordsDecode := by
  simp only [Obligations.WrittenWordsDecode, decode_eq_row_iff, decode_cons_eq_miss_iff]
  decide

end Sys2Proof.Claims
end

section
/-! PROOFS. The cycle (spec/40_cycle.md): each stage's tick (R79 to R89), the stage that follows it (R77), the invariant
along every run (R82, R87), an instruction's ticks from Fetch to retirement (R90), and the reference run loop (R91). -/

namespace Sys2Proof.Machine

variable {s t : State} {op : Operation}

/-! ### Each stage's tick -/

theorem State.pcPlus_eq_advance (n : Nat) (s : State) : Claims.pcPlus n s = s.advance n := by
  rw [Claims.pcPlus, State.advance, Regs.advance_eq]

/-- Decode with nothing pending is refused (40_cycle.md R82). -/
theorem step_decode_empty (hs : s.stage = .decode) (hp : s.pending = none) :
    step s = .refused (.emptyOpcode (s.aborted .emptyOpcode)) := by
  simp only [step_decode hs, tickDecode, hp]

/-- Exec with nothing current is refused (40_cycle.md R87). -/
theorem step_exec_empty (hs : s.stage = .exec) (hc : s.current = none) :
    step s = .refused (.emptyOpcode (s.aborted .emptyOpcode)) := by
  simp only [step_exec hs, tickExec, hc]

theorem fetchByte_out (h : s.imem.cap ≤ s.regs.pc.toNat) :
    fetchByte s = .error (.outOfBounds .imem s.regs.pc.toNat 1) := by
  rw [fetchByte_eq, if_neg (Nat.not_lt.mpr h)]

/-- When memory holds some of a kind's trailing bytes at PC and then ends, the fetch fails past those bytes
(40_cycle.md R85). -/
theorem fetchTrailing_of_cut_short {k : Kind} {bytes : List Byte} (h : s.imem.Holds s.regs.pc bytes)
    (hshort : bytes.length < k.trailing) (hend : s.imem.cap ≤ (s.advance bytes.length).regs.pc.toNat) :
    fetchTrailing k s =
      .error (.outOfBounds .imem (s.advance bytes.length).regs.pc.toNat 1, s.advance bytes.length) := by
  match bytes with
  | [] =>
    rw [List.length_nil, State.advance_zero] at hend ⊢
    cases k with
    | noOperand => cases hshort
    | _ => simp only [fetchTrailing, fetchByte_out hend]
  | [first] =>
    cases k with
    | nn =>
      rw [List.length_singleton] at hend ⊢
      simp only [fetchTrailing, (fetchByte_of_holds h).1, fetchByte_out (s := s.advance 1) hend]
    | _ => simp [Kind.trailing] at hshort
  | _ :: _ :: _ => cases k <;> simp [Kind.trailing] at hshort

/-- The Exec step of a row whose trailing bytes memory holds at PC (40_cycle.md R84, R86). -/
theorem step_row {i : Instr} (hs : s.stage = .exec) (hc : s.current = some i.template)
    (h : s.imem.Holds s.regs.pc i.trailing.bytes) : step s = exec i (s.advance i.trailing.bytes.length) := by
  obtain ⟨hkind, hrow⟩ := Laws.Fetched.all i
  rw [step_exec hs, tickExec_of_holds hc hkind h, applyFetched, hrow, Trailing.bytes_length]

/-! ### The stage a tick leaves -/

/-- The stage that follows in the cycle (40_cycle.md R77). -/
def Stage.following : Stage → Stage
  | .fetch => .decode
  | .decode => .exec
  | .exec => .writeback
  | .writeback => .fetch

/-- An operation completes or raises an error (40_cycle.md R86, R88). -/
theorem Effect.ends (h : Effect op s t) : Claims.Completed t ∨ ∃ e, Claims.Aborted e t := by
  cases h with
  | unsupported => exact .inr ⟨_, rfl, rfl⟩
  | registerNotFound => exact .inr ⟨_, rfl, rfl⟩
  | dataOutOfBounds => exact .inr ⟨_, rfl, rfl⟩
  | _ => exact .inl ⟨rfl, rfl⟩

/-- A tick returns an error and lands on Fetch, or it returns none and moves one place along the cycle. -/
theorem step_ends (h : step s = .next t) :
    (∃ e, Claims.Aborted e t) ∨ ((∀ e, t.lastResult ≠ some (.err e)) ∧ t.stage = s.stage.following) := by
  cases step_cases h with
  | fetchOutOfBounds => exact .inl ⟨_, rfl, rfl⟩
  | trailingOutOfBounds => exact .inl ⟨_, rfl, rfl⟩
  | fetched hs => exact .inr ⟨nofun, hs ▸ rfl⟩
  | hit _ _ hs => exact .inr ⟨nofun, hs ▸ rfl⟩
  | miss _ hs => exact .inr ⟨nofun, hs ▸ rfl⟩
  | writeback hs => exact .inr ⟨nofun, hs ▸ rfl⟩
  | applied _ _ hs _ he =>
    obtain ⟨hstage, hok⟩ | herr := he.ends
    · exact .inr ⟨by simp [hok], hs ▸ hstage⟩
    · exact .inl herr

theorem State.errored_eq_true_iff : s.errored = true ↔ ∃ e, s.lastResult = some (.err e) := by
  unfold State.errored
  split <;> simp_all

theorem step_error_stage {e : EngineError} (h : step s = .next t) (he : t.lastResult = some (.err e)) :
    t.stage = .fetch := by
  obtain ⟨_, hstage, -⟩ | ⟨hno, -⟩ := step_ends h
  · exact hstage
  · exact absurd he (hno e)

/-! ### The invariant -/

theorem Effect.dmem_wf (h : Effect op s t) (wf : s.dmem.wf) : t.dmem.wf := by
  cases h with
  | store _ _ _ _ hea => exact Memory.setByte_wf wf hea _
  | _ => exact wf

theorem step_keeps_dmem_wf (h : step s = .next t) (wf : s.dmem.wf) : t.dmem.wf := by
  cases step_cases h with
  | applied _ _ _ _ he => exact he.dmem_wf wf
  | _ => exact wf

/-- Fetch fills the pending byte, Decode takes it, and no other tick touches it (40_cycle.md R79, R81). -/
theorem step_keeps_pending_iff (h : step s = .next t) (hp : s.pending.isSome = true ↔ s.stage = .decode) :
    t.pending.isSome = true ↔ t.stage = .decode := by
  cases step_cases h with
  | fetched => exact iff_of_true rfl rfl
  | hit => exact iff_of_false nofun nofun
  | miss => exact iff_of_false nofun nofun
  | fetchOutOfBounds hs => simpa [hs] using hp
  | trailingOutOfBounds _ _ hs => simpa [hs] using hp
  | writeback hs => simpa [hs] using hp
  | applied _ _ hs _ he =>
    rw [he.rest.pending]
    obtain ⟨hstage, -⟩ | ⟨_, hstage, -⟩ := he.ends <;> simpa [hs, hstage] using hp

/-- Decode gives a current instruction, and no tick after it takes it away (40_cycle.md R81, R83, R89). -/
theorem step_keeps_current (h : step s = .next t) (ht : t.stage = .exec ∨ t.stage = .writeback) :
    t.current.isSome = true := by
  cases step_cases h with
  | hit => rfl
  | miss => rfl
  | applied v _ _ hv he => rw [he.rest.current, State.advance_current, hv, Option.isSome_some]
  | _ => simp [State.fetched] at ht

/-- A new current instruction comes from Decode: the table's entry, or the placeholder (40_cycle.md R81, R83). -/
theorem step_current_cases (h : step s = .next t) :
    t.current = s.current ∨ t.current = some .placeholder ∨ ∃ b, t.current = DecodeTable.lookup s.table b := by
  cases step_cases h with
  | hit b v _ _ hv => exact .inr (.inr ⟨b, hv.symm⟩)
  | miss => exact .inr (.inl rfl)
  | applied _ _ _ _ he => exact .inl he.rest.current
  | _ => exact .inl rfl

theorem step_keeps_inv (h : step s = .next t) (inv : s.Inv) : t.Inv where
  imem := step_keeps_imem h ▸ inv.imem
  dmem := step_keeps_dmem_wf h inv.dmem
  pending := step_keeps_pending_iff h inv.pending
  current := step_keeps_current h
  fromTable v hv := by
    rw [step_keeps_table h]
    obtain hkept | hmiss | ⟨b, hhit⟩ := step_current_cases h
    · exact inv.fromTable v (hkept ▸ hv)
    · exact .inl (Option.some.inj (hv.symm.trans hmiss))
    · exact .inr ⟨b, hhit ▸ hv⟩

theorem State.construct_inv {P : Params} (h : P.Legal) : (State.construct P).Inv where
  imem := h.imem
  dmem := h.dmem
  pending := iff_of_false nofun nofun
  current := nofun
  fromTable := nofun

theorem Reachable.inv (h : Reachable s) : s.Inv := by
  induction h with
  | construct legal => exact State.construct_inv legal
  | tick _ hstep ih => exact step_keeps_inv hstep ih

theorem State.Inv.step_answers_next (inv : s.Inv) : ∃ t, step s = .next t := by
  refine Machine.step_answers_next (fun hs => ?_) fun hs => ?_
  · exact Option.isSome_iff_ne_none.mp (inv.pending.mpr hs)
  · exact Option.isSome_iff_ne_none.mp (inv.current (.inl hs))

/-! ### An instruction from Fetch to retirement -/

/-- The Fetch, Decode and Exec ticks of a row whose bytes memory holds at PC (40_cycle.md R79, R81, R84, R86). -/
theorem ticks_three_row {i : Instr} (hs : s.stage = .fetch) (htable : s.table = refTable)
    (h : s.imem.Holds s.regs.pc (encode i)) :
    ticks 3 s = exec i ((decodeHit i.template s.fetched).advance i.trailing.bytes.length) := by
  have hv : DecodeTable.lookup s.table i.opcode = some i.template := htable ▸ lookup_opcode i
  have htrailing := (fetchByte_of_holds h).2
  rw [ticks_fetch_hit hs h.1 hv, ticks_then_step (ticks_zero _)]
  exact step_row rfl rfl htrailing

/-- No row loads PC, so it leaves PC where the fetches have moved it. -/
theorem Effect.row_keeps_pc {i : Instr} (h : Effect i.template.operation s t) : t.regs.pc = s.regs.pc := by
  have hrow : i.template.operation ≠ .load (.r16 .pc) .imm16 := by cases i <;> nofun
  by_contra hne
  exact hrow (h.destination_of_read16_ne (p := .pc) rfl hne)

/-! ### The reference run loop -/

section

variable {terminate : State → Bool}

theorem runLoop_terminated (hs : s.stage = .fetch) (htrue : terminate s = true) (fuel : Nat) :
    runLoop terminate fuel s = .terminated s := by
  cases fuel <;> simp [runLoop, hs, htrue]

theorem loopTest_cases (terminate : State → Bool) (s : State) :
    (s.stage = .fetch ∧ terminate s = true) ∨ (s.stage = .fetch → terminate s = false) := by
  cases terminate s <;> simp [em]

section

variable (hp : s.stage = .fetch → terminate s = false)
include hp

/-- The loop tests the predicate at stage Fetch only (40_cycle.md R91). -/
theorem loopTest_eq_false : (s.stage == .fetch && terminate s) = false := by
  simpa using hp

theorem runLoop_zero : runLoop terminate 0 s = .outOfFuel s := by
  simp [runLoop, loopTest_eq_false hp]

theorem runLoop_error (fuel : Nat) {e : EngineError} (h : step s = .next t) (he : t.lastResult = some (.err e)) :
    runLoop terminate (fuel + 1) s = .error e t := by
  simp [runLoop, loopTest_eq_false hp, h, he]

/-- A tick that returns no error goes on, whether it returned Ok or the warning of a decode miss. -/
theorem runLoop_continues (fuel : Nat) (h : step s = .next t) (hno : ∀ e, t.lastResult ≠ some (.err e)) :
    runLoop terminate (fuel + 1) s = runLoop terminate fuel t := by
  simp [runLoop, loopTest_eq_false hp, h]

theorem runLoop_emptyOpcode (fuel : Nat) (h : step s = .refused (.emptyOpcode t)) :
    runLoop terminate (fuel + 1) s = .error .emptyOpcode t := by
  simp [runLoop, loopTest_eq_false hp, h]

end

/-- An end of the loop that is what it says: the predicate holds at Fetch, or the last tick returned the error and left
Fetch, or the fuel is spent; and never a refusal. -/
def LoopEnd.Sound (terminate : State → Bool) : LoopEnd → Prop
  | .terminated t => t.stage = .fetch ∧ terminate t = true
  | .outOfFuel _ => True
  | .error e t => t.lastResult = some (.err e) ∧ t.stage = .fetch
  | .refused _ => False

theorem runLoop_sound (fuel : Nat) (inv : s.Inv) : (runLoop terminate fuel s).Sound terminate := by
  induction fuel generalizing s with
  | zero =>
    obtain ⟨hs, htrue⟩ | hp := loopTest_cases terminate s
    · rw [runLoop_terminated hs htrue]
      exact ⟨hs, htrue⟩
    · rw [runLoop_zero hp]
      trivial
  | succ fuel ih =>
    obtain ⟨hs, htrue⟩ | hp := loopTest_cases terminate s
    · rw [runLoop_terminated hs htrue]
      exact ⟨hs, htrue⟩
    · obtain ⟨t, h⟩ := inv.step_answers_next
      by_cases herr : ∃ e, t.lastResult = some (.err e)
      · obtain ⟨e, he⟩ := herr
        rw [runLoop_error hp fuel h he]
        exact ⟨he, step_error_stage h he⟩
      · rw [runLoop_continues hp fuel h (not_exists.mp herr)]
        exact ih (step_keeps_inv h inv)

end

end Sys2Proof.Machine

namespace Sys2Proof.Claims

open Sys2Proof.Machine

/-- Settles O53: part by part, from what a step can do. -/
theorem invariantIsKept : Obligations.InvariantIsKept := fun _ _ inv h => step_keeps_inv h inv

/-- Settles O23: the trailing fetch fails, so the operation is not applied. -/
theorem trailingFetchOutOfBounds : Obligations.TrailingFetchOutOfBounds := by
  intro s v bytes hs hv hholds hshort hend
  have hpc : (s.advance bytes.length).regs.pc = s.regs.pc + BitVec.ofNat 16 bytes.length := s.regs.advance_pc _
  have hfetch := fetchTrailing_of_cut_short hholds hshort (hpc ▸ hend)
  simp only [step_exec hs, tickExec, hv, hfetch, hpc, State.pcPlus_eq_advance]
  rfl

/-- Settles O25: the bytes that decode to a row are its encoding. -/
theorem threeStepsRunTheInstructionAtPc : Obligations.ThreeStepsRunTheInstructionAtPc := by
  intro s i bytes hs htable hholds hdecode
  rw [(decode_eq_row_iff.mp hdecode).trans (List.append_nil _)] at hholds ⊢
  rw [ticks_three_row hs htable hholds, State.pcPlus_eq_advance, encode, List.length_cons, Nat.add_comm,
    ← State.advance_advance]
  rfl

/-- Settles O29: the two ways a tick ends. -/
theorem stagesFollowTheCycle : Obligations.StagesFollowTheCycle := by
  intro s t h
  refine ⟨Option.isSome_iff_ne_none.mpr (step_answers h), fun herr => ?_, fun hok => ?_⟩
  · obtain ⟨e, he⟩ := State.errored_eq_true_iff.mp herr
    exact step_error_stage h he
  · obtain ⟨e, -, he⟩ | ⟨-, hstage⟩ := step_ends h
    · simp [State.errored_eq_true_iff.mpr ⟨e, he⟩] at hok
    · rw [hstage]
      exact ⟨fun hs => hs ▸ rfl, fun hs => hs ▸ rfl, fun hs => hs ▸ rfl, fun hs => hs ▸ rfl⟩

/-- Settles O28: Writeback's deferred effects are none. -/
theorem writebackTick : Obligations.WritebackTick := fun _ => step_writeback

/-- Settles O30: the third tick applies the row, and after a completion the fourth is Writeback. -/
theorem instructionRetiresInFourSteps : Obligations.InstructionRetiresInFourSteps := by
  intro s i bytes hs htable hholds hdecode
  have hthree := threeStepsRunTheInstructionAtPc s i bytes hs htable hholds hdecode
  obtain ⟨t, hexec, he⟩ := exec_effect i _
  rw [hexec] at hthree
  refine ⟨t, hthree, he.row_keeps_pc, ?_⟩
  obtain ⟨hstage, hok⟩ | ⟨e, hstage, herr⟩ := he.ends
  · refine .inr ⟨hok, ?_⟩
    rw [ticks_then_step hthree, writebackTick t hstage, ← hok]
  · exact .inl ⟨State.errored_eq_true_iff.mpr ⟨e, herr⟩, hstage⟩

/-- Settles O54: a reachable state meets the invariant, which rules the two refused ticks out. -/
theorem reachableMachineNeverStops : Obligations.ReachableMachineNeverStops := fun _ h => h.inv.step_answers_next

/-- Settles O59: the loop's cases one by one, and its ends by induction on the fuel. -/
theorem runLoopStopsAsTheReferenceLoop : Obligations.RunLoopStopsAsTheReferenceLoop := by
  intro terminate fuel s
  refine ⟨fun hs htrue => runLoop_terminated hs htrue fuel, fun hp => ⟨runLoop_zero hp, ?_, ?_, ?_⟩, fun inv => ?_⟩
  · exact fun t e => runLoop_error hp fuel
  · exact fun t => runLoop_continues hp fuel
  · exact fun t => runLoop_emptyOpcode hp fuel
  · have sound := runLoop_sound (terminate := terminate) fuel inv
    refine ⟨fun t hend => ?_, fun e t hend => ?_, fun r hend => ?_⟩ <;> rw [hend] at sound <;> exact sound

/-- Settles O19: PC is below the capacity, so the byte is fetched. -/
theorem fetchTick : Obligations.FetchTick := by
  intro s hs hpc
  rw [step_fetched hs hpc, State.fetched, ← State.pcPlus_eq_advance]
  rfl

/-- Settles O20: the error leaves stage Fetch and PC, so the next tick meets it again. -/
theorem fetchOutOfBoundsRepeats : Obligations.FetchOutOfBoundsRepeats := by
  rintro s t hs hpc rfl
  have hstay : { s with lastResult := some (.err (.outOfBounds .imem s.regs.pc.toNat 1)) } =
      s.aborted (.outOfBounds .imem s.regs.pc.toNat 1) := by rw [State.aborted, ← hs]
  rw [hstay]
  exact ⟨(step_fetch hs).trans (tickFetch_out hpc), (step_fetch rfl).trans (tickFetch_out hpc)⟩

/-- Settles O21: the lookup's two results. -/
theorem decodeTick : Obligations.DecodeTick := fun _ _ hs hb =>
  ⟨fun _ => step_decodeHit hs hb, step_decodeMiss hs hb⟩

/-- Settles O22: the two ticks that find nothing to work on. -/
theorem emptyOpcodeIsRefused : Obligations.EmptyOpcodeIsRefused := by
  rintro s t (⟨hs, hp⟩ | ⟨hs, hc⟩) rfl
  · exact step_decode_empty hs hp
  · exact step_exec_empty hs hc

/-- Settles O24: the row's bytes are fetched and name the row again. -/
theorem stepRunsTheDecodedInstruction : Obligations.StepRunsTheDecodedInstruction := by
  intro s i hs hc hholds
  rw [State.pcPlus_eq_advance, step_row hs hc hholds]

end Sys2Proof.Claims
end

section
/-! PROOFS. Operand resolution (spec/41_operands.md): a row's meaning is its operation's (R102), what a Load of no
admitted form and an Add answer (R102, R132), and what an error of any tick leaves (R103). -/

namespace Sys2Proof.Machine

variable {s t : State} {op : Operation}

/-! ### An Exec tick as operand resolution -/

/-- The Exec step of an entry of any table whose trailing bytes memory holds at PC (40_cycle.md R84, R86). -/
theorem step_of_holds {v : Instruction} {tr : Trailing} (hs : s.stage = .exec) (hv : s.current = some v)
    (hkind : tr.kind = v.kind) (h : s.imem.Holds s.regs.pc tr.bytes) :
    step s = applyOperation v.operation tr (s.advance tr.bytes.length) := by
  rw [step_exec hs, tickExec_of_holds hv hkind h, applyFetched_eq_applyOperation, Trailing.bytes_length]

/-- A Load of none of the forms L1 to L5 fails the form check (41_operands.md R102). -/
theorem applyLoad_unadmitted {tr : Trailing} {dst src : Operand} (h : dst.admittedLoad tr.kind src = false)
    (s : State) : applyLoad tr dst src s = unsupported s := by
  have hform : loadForm s tr dst src = none := by
    rwa [← Option.isNone_iff_eq_none, ← Option.isSome_eq_false_iff, loadForm_isSome]
  simp only [applyLoad, hform]

/-! ### What an error leaves -/

/-- An operation that raises an error has written nothing before it (41_operands.md R103). -/
theorem Effect.eq_aborted (h : Effect op s t) {e : EngineError} (he : t.lastResult = some (.err e)) :
    t = s.aborted e := by
  cases h with
  | unsupported => cases he; rfl
  | registerNotFound => cases he; rfl
  | dataOutOfBounds => cases he; rfl
  | _ => cases he

/-- A tick that returns an error has done nothing before it but to advance PC (40_cycle.md R80, R85, R88). -/
theorem step_error_eq_aborted (h : step s = .next t) {e : EngineError} (he : t.lastResult = some (.err e)) :
    ∃ n, t = (s.advance n).aborted e := by
  cases step_cases h with
  | fetchOutOfBounds => cases he; exact ⟨0, by rw [State.advance_zero]⟩
  | trailingOutOfBounds _ n => cases he; exact ⟨n, rfl⟩
  | applied v _ _ _ heffect => exact ⟨v.kind.trailing, heffect.eq_aborted he⟩
  | _ => cases he

end Sys2Proof.Machine

namespace Sys2Proof.Claims

open Sys2Proof.Machine

/-- Settles O40: row by row, each 16-bit value being what its two trailing bytes assemble to. -/
theorem execFollowsOperandResolution : Obligations.ExecFollowsOperandResolution := exec_eq_applyOperation

/-- Settles O45: the trailing bytes are fetched; then a Load fails the form check, and an Add has no meaning. -/
theorem unadmittedFormsAreUnsupported : Obligations.UnadmittedFormsAreUnsupported := by
  intro s v bytes hs hv hholds hlength hform
  obtain ⟨tr, hkind, rfl⟩ := exists_trailing hlength
  rw [step_of_holds hs hv hkind hholds, State.pcPlus_eq_advance]
  obtain ⟨dst, src, hop, hload⟩ | ⟨lhs, rhs, hop⟩ := hform
  · rw [hop]
    exact applyLoad_unadmitted (hkind ▸ hload) _
  · rw [hop]
    rfl

/-- Settles O55: an error's state is the old one but for PC's advance, the stage and the answer. -/
theorem abortedExecChangesOnlyPc : Obligations.AbortedExecChangesOnlyPc := by
  intro s t h herr
  obtain ⟨e, he⟩ := State.errored_eq_true_iff.mp herr
  obtain ⟨n, rfl⟩ := step_error_eq_aborted h he
  exact ⟨rfl, s.regs.advance_read8 n, s.regs.advance_read16 n (p := .sp) nofun,
    s.regs.advance_read16 n (p := .ix) nofun, s.regs.advance_read16 n (p := .iy) nofun, ⟨rfl, fun _ => rfl⟩,
    ⟨rfl, rfl, rfl, rfl, rfl⟩⟩

end Sys2Proof.Claims
end

section
/-! PROOFS. No-operation (spec/42_nop.md): NOP (R105), a Nop of any kind with its trailing bytes (R107), and an opcode
with no entry, which runs as one (R106). -/

namespace Sys2Proof.Machine

variable {s : State}

/-! ### What a Nop leaves -/

/-- Completing writes the stage and the answer only (40_cycle.md R86). -/
theorem State.completed_unchanged (s : State) : Claims.Unchanged s s.completed :=
  ⟨rfl, ⟨rfl, fun _ => rfl⟩, ⟨rfl, rfl, rfl, rfl, rfl⟩⟩

/-- A Nop's last two ticks, from Exec with its trailing bytes at PC: they move PC past those bytes and are back at Fetch
(42_nop.md R107, 40_cycle.md R89). -/
theorem ticks_two_nop {tr : Trailing} (hs : s.stage = .exec) (hv : s.current = some ⟨tr.kind, .nop⟩)
    (h : s.imem.Holds s.regs.pc tr.bytes) :
    ticks 2 s = .next { s.advance tr.bytes.length with stage := .fetch, lastResult := some .ok } := by
  have hexec : step s = .next (s.advance tr.bytes.length).completed := step_of_holds hs hv rfl h
  rw [ticks_of_step hexec, ticks_then_step (ticks_zero _)]
  exact Claims.writebackTick _ rfl

end Sys2Proof.Machine

namespace Sys2Proof.Claims

open Sys2Proof.Machine

/-- Settles O26: the Fetch and Decode ticks count the miss, and the placeholder they leave is a Nop without trailing
bytes. -/
theorem missedOpcodeRunsAsNoOp : Obligations.MissedOpcodeRunsAsNoOp := by
  intro s b hs hb hmiss
  refine ⟨?_, decodeMiss b s.fetched, ticks_fetch_miss hs hb hmiss 0, rfl⟩
  rw [ticks_fetch_miss hs hb hmiss 2, ticks_two_nop (tr := .noOperand) rfl rfl trivial, State.pcPlus_eq_advance,
    Trailing.bytes, List.length_nil, State.advance_zero]
  rfl

/-- Settles O27: the opcode is fetched and hits its entry, and the bytes after it are the Nop's trailing bytes. -/
theorem nopWithTrailingBytes : Obligations.NopWithTrailingBytes := by
  intro s k b rest hs hholds hlength hentry
  obtain ⟨tr, rfl, rfl⟩ := exists_trailing hlength
  have htrailing := (fetchByte_of_holds hholds).2
  rw [ticks_fetch_hit hs hholds.1 hentry 2, ticks_two_nop (s := decodeHit _ s.fetched) rfl rfl htrailing,
    State.pcPlus_eq_advance, ← State.advance_advance, hlength]
  rfl

/-- Settles O31: NOP is the completion alone. -/
theorem nopChangesNothing : Obligations.NopChangesNothing := fun s =>
  ⟨s.completed, rfl, ⟨rfl, rfl⟩, s.completed_unchanged⟩

end Sys2Proof.Claims
end

section
/-! PROOFS. The 8-bit loads (spec/43_load8.md): what each form does to the registers and to data memory, said once
(41_operands.md R102, R103), then read off for the rows of the opcode table (R108 to R118) and for the entries of any
table (R119 to R122). -/

namespace Sys2Proof.Machine

open Claims

/-! ### What a Load form leaves -/

/-- The answer completes with `v` in `dst` and every other register as in `g`; data memory and the rest are those of
`s`. -/
def WritesByte (s : State) (g : Regs) (dst : Reg8) (v : Byte) (a : Answer) : Prop :=
  ∃ t, a = .next t ∧ Completed t ∧ OneByteWritten dst v g t.regs ∧ SameBytes s t ∧ Rest s t

/-- The answer completes with `v` at `addr` of data memory and every other byte as in `s`; the registers are `g`, the
rest is that of `s`. -/
def StoresByte (s : State) (g : Regs) (addr : Nat) (v : Byte) (a : Answer) : Prop :=
  ∃ t, a = .next t ∧ Completed t ∧ OneByteStored addr v s t ∧ t.regs = g ∧ Rest s t

/-- The answer is the error alone: nothing of `s` is changed. -/
def OnlyRaises (s : State) (e : EngineError) (a : Answer) : Prop :=
  ∃ t, a = .next t ∧ Aborted e t ∧ Unchanged s t

variable (s : State) (g : Regs)

/-- An error taken writes the stage and the answer only (40_cycle.md R88). -/
theorem raise_onlyRaises (e : EngineError) : OnlyRaises s e (raise e s) :=
  ⟨s.aborted e, rfl, ⟨rfl, rfl⟩, rfl, ⟨rfl, fun _ => rfl⟩, ⟨rfl, rfl, rfl, rfl, rfl⟩⟩

theorem loadRegImm_writes (dst : Reg8) (n : Byte) : WritesByte s g dst n (loadRegImm dst n { s with regs := g }) :=
  ⟨_, rfl, ⟨rfl, rfl⟩, g.oneByteWritten_write8 dst n, ⟨rfl, fun _ => rfl⟩, ⟨rfl, rfl, rfl, rfl, rfl⟩⟩

/-- A copy is the load of the source's byte. -/
theorem loadRegReg_writes (dst src : Reg8) : WritesByte s s.regs dst (s.regs.read8 src) (loadRegReg dst src s) :=
  loadRegImm_writes s s.regs dst (s.regs.read8 src)

theorem loadRegMem_writes (dst : Reg8) {ea : Word} (h : ea.toNat < s.dmem.cap) :
    WritesByte s g dst (s.dmem.byteAt ea.toNat) (loadRegMem dst ea { s with regs := g }) := by
  rw [loadRegMem_in (s := { s with regs := g }) h]
  exact loadRegImm_writes s g dst _

theorem storeMemReg_stores (src : Reg8) {ea : Word} (wf : s.dmem.wf) (h : ea.toNat < s.dmem.cap) :
    StoresByte s g ea.toNat (g.read8 src) (storeMemReg ea src { s with regs := g }) := by
  rw [storeMemReg_in (s := { s with regs := g }) h]
  exact ⟨_, rfl, ⟨rfl, rfl⟩,
    ⟨rfl, Memory.byteAt_setByte_same wf _ _, fun _ => Memory.byteAt_setByte_other s.dmem _⟩, rfl,
    ⟨rfl, rfl, rfl, rfl, rfl⟩⟩

theorem loadRegMem_onlyRaises (dst : Reg8) {ea : Word} (h : s.dmem.cap ≤ ea.toNat) :
    OnlyRaises s (.outOfBounds .dmem ea.toNat 1) (loadRegMem dst ea s) := by
  rw [loadRegMem_out h]
  exact raise_onlyRaises s _

theorem storeMemReg_onlyRaises (src : Reg8) {ea : Word} (h : s.dmem.cap ≤ ea.toNat) :
    OnlyRaises s (.outOfBounds .dmem ea.toNat 1) (storeMemReg ea src s) := by
  rw [storeMemReg_out h]
  exact raise_onlyRaises s _

/-! ### The form of each row -/

variable {s : State}

theorem exec_regRegRow {row : Instr × Reg8 × Reg8} (h : row ∈ regRegRows) :
    exec row.1 s = loadRegReg row.2.1 row.2.2 s := by
  unfold regRegRows at h
  fin_cases h <;> rfl

theorem exec_regAtRow {row : Instr × Reg8 × Reg16} (h : row ∈ regAtRows) :
    exec row.1 s = loadRegMem row.2.1 (s.regs.read16 row.2.2) s := by
  unfold regAtRows at h
  fin_cases h <;> rfl

theorem exec_atRegRow {row : Instr × Reg16 × Reg8} (h : row ∈ atRegRows) :
    exec row.1 s = storeMemReg (s.regs.read16 row.2.1) row.2.2 s := by
  unfold atRegRows at h
  fin_cases h <;> rfl

theorem exec_regImmRow {n : Byte} {row : Instr × Reg8} (h : row ∈ regImmRows n) :
    exec row.1 s = loadRegImm row.2 n s := by
  unfold regImmRows at h
  fin_cases h <;> rfl

theorem exec_unsupportedRow {n : Byte} {nn : Word} {i : Instr} (h : i ∈ unsupportedRows n nn) :
    exec i s = unsupported s := by
  unfold unsupportedRows at h
  fin_cases h <;> rfl

/-! ### The form of each entry -/

theorem applyOperation_load_mem {tr : Trailing} {a : Operand} {ea : Word} (h : effectiveAddress s tr a = some ea)
    (dst : Reg8) : applyOperation (.load (.r8 dst) (.mem a)) tr s = loadRegMem dst ea s := by
  simp only [applyOperation, applyLoad, loadForm, h, Option.map_some, performLoad, resolve8]

theorem applyOperation_store_mem {tr : Trailing} {a : Operand} {ea : Word} (h : effectiveAddress s tr a = some ea)
    (src : Reg8) : applyOperation (.load (.mem a) (.r8 src)) tr s = storeMemReg ea src s := by
  simp only [applyOperation, applyLoad, loadForm, h, Option.map_some, performLoad, resolve8]

/-- The operand's address is the effective address once the trailing bytes are fetched: no base read after a fetch is
PC (41_operands.md R98 to R100). -/
theorem effectiveAddress_of_addresses {k : Kind} {a : Operand} {bytes : List Byte} {ea : Word}
    (h : Addresses s k a bytes ea) :
    ∃ tr : Trailing, tr.kind = k ∧ tr.bytes = bytes ∧ effectiveAddress (s.advance bytes.length) tr a = some ea := by
  obtain ⟨x, d, hx, rfl, rfl, rfl, rfl⟩ | ⟨p, hix, hiy, rfl, rfl, rfl, rfl⟩ | ⟨first, second, rfl, rfl, rfl, rfl⟩ := h
  · refine ⟨.displacement d, rfl, rfl, ?_⟩
    obtain rfl | rfl := hx
    · exact congrArg (some <| · + displacement d) (s.regs.advance_read16 1 (p := .ix) nofun)
    · exact congrArg (some <| · + displacement d) (s.regs.advance_read16 1 (p := .iy) nofun)
  · refine ⟨.noOperand, rfl, rfl, ?_⟩
    have hindex : p.isIndex = false := by cases p <;> trivial
    rw [List.length_nil, State.advance_zero]
    simp only [effectiveAddress, hindex]
    rfl
  · exact ⟨.nn first second, rfl, rfl, rfl⟩

section

variable {k : Kind} {a : Operand} {bytes : List Byte} {n : Nat} {ea : Word} {reg : Reg8}

/-- The Exec step of a memory load of any table is the form L4, applied once PC has passed its trailing bytes
(40_cycle.md R84, R86). -/
theorem step_load_mem (hs : s.stage = .exec) (hv : s.current = some ⟨k, .load (.r8 reg) (.mem a)⟩)
    (h : s.imem.Holds s.regs.pc bytes) (hn : bytes.length = n) (hea : Addresses s k a bytes ea) :
    step s = loadRegMem reg ea (pcPlus n s) := by
  subst hn
  obtain ⟨tr, hkind, rfl, hea⟩ := effectiveAddress_of_addresses hea
  rw [step_of_holds hs hv hkind h, State.pcPlus_eq_advance]
  exact applyOperation_load_mem hea reg

/-- The Exec step of a memory store of any table is the form L5, likewise. -/
theorem step_store_mem (hs : s.stage = .exec) (hv : s.current = some ⟨k, .load (.mem a) (.r8 reg)⟩)
    (h : s.imem.Holds s.regs.pc bytes) (hn : bytes.length = n) (hea : Addresses s k a bytes ea) :
    step s = storeMemReg ea reg (pcPlus n s) := by
  subst hn
  obtain ⟨tr, hkind, rfl, hea⟩ := effectiveAddress_of_addresses hea
  rw [step_of_holds hs hv hkind h, State.pcPlus_eq_advance]
  exact applyOperation_store_mem hea reg

theorem step_load_mem_writes (hs : s.stage = .exec) (hv : s.current = some ⟨k, .load (.r8 reg) (.mem a)⟩)
    (h : s.imem.Holds s.regs.pc bytes) (hn : bytes.length = n) (hea : Addresses s k a bytes ea)
    (hcap : ea.toNat < s.dmem.cap) :
    WritesByte s (pcPlus n s).regs reg (s.dmem.byteAt ea.toNat) (step s) := by
  rw [step_load_mem hs hv h hn hea]
  exact loadRegMem_writes s _ reg hcap

/-- The source keeps its byte through the trailing fetch, which writes PC alone. -/
theorem step_store_mem_stores (hs : s.stage = .exec) (hv : s.current = some ⟨k, .load (.mem a) (.r8 reg)⟩)
    (h : s.imem.Holds s.regs.pc bytes) (hn : bytes.length = n) (hea : Addresses s k a bytes ea)
    (wf : s.dmem.wf) (hcap : ea.toNat < s.dmem.cap) :
    StoresByte s (pcPlus n s).regs ea.toNat (s.regs.read8 reg) (step s) := by
  have hreg : (pcPlus n s).regs.read8 reg = s.regs.read8 reg := by cases reg <;> rfl
  rw [step_store_mem hs hv h hn hea, ← hreg]
  exact storeMemReg_stores s _ reg wf hcap

end

end Sys2Proof.Machine

namespace Sys2Proof.Claims

open Sys2Proof.Machine

/-- Settles O32: each row is the form L1. -/
theorem registerCopies : Obligations.RegisterCopies := by
  intro row hrow s
  rw [exec_regRegRow hrow]
  exact loadRegReg_writes s row.2.1 row.2.2

/-- Settles O33: the address is read before the destination is written, H and L among the destinations. -/
theorem registerIndirectLoads : Obligations.RegisterIndirectLoads := by
  intro row hrow s hcap
  rw [exec_regAtRow hrow]
  exact loadRegMem_writes s s.regs row.2.1 hcap

/-- Settles O34: each row is the form L5 at the pair's value. -/
theorem registerIndirectStores : Obligations.RegisterIndirectStores := by
  intro row hrow s wf hcap
  rw [exec_atRegRow hrow]
  exact storeMemReg_stores s s.regs row.2.2 wf hcap

/-- Settles O35: each row is the form L2. -/
theorem registerImmediates : Obligations.RegisterImmediates := by
  intro n row hrow s
  rw [exec_regImmRow hrow]
  exact loadRegImm_writes s s.regs row.2 n

/-- Settles O36: the two rows are the forms L4 and L5 at nn. -/
theorem absoluteLoadAndStore : Obligations.AbsoluteLoadAndStore := fun _ s hcap =>
  ⟨loadRegMem_writes s s.regs .a hcap, fun wf => storeMemReg_stores s s.regs .a wf hcap⟩

/-- Settles O38: each row is the error alone, and an error taken writes the stage and the answer only. -/
theorem unsupportedRowsOnlyRaise : Obligations.UnsupportedRowsOnlyRaise := by
  intro n nn i hi s
  rw [exec_unsupportedRow hi]
  exact raise_onlyRaises s _

/-- Settles O39: a row or an entry is the form L4 or L5 at its address, and the access fails before any write. -/
theorem dataAccessOutOfBounds : Obligations.DataAccessOutOfBounds := by
  refine ⟨fun row hrow s hcap => ?_, fun row hrow s hcap => ?_, fun nn i hi s hcap => ?_,
    fun s reg k a bytes ea hs hv hholds hea hcap => ?_⟩
  · rw [exec_regAtRow hrow]
    exact loadRegMem_onlyRaises s row.2.1 hcap
  · rw [exec_atRegRow hrow]
    exact storeMemReg_onlyRaises s row.2.2 hcap
  · obtain rfl | rfl := List.mem_pair.mp hi
    · exact loadRegMem_onlyRaises s .a hcap
    · exact storeMemReg_onlyRaises s .a hcap
  · obtain hv | hv := hv
    · exact (step_load_mem hs hv hholds rfl hea).trans (loadRegMem_out hcap)
    · exact (step_store_mem hs hv hholds rfl hea).trans (storeMemReg_out hcap)

/-- Settles O41: the forms L4 and L5 at the displaced address. -/
theorem displacedIndexedLoadsAndStores : Obligations.DisplacedIndexedLoadsAndStores := by
  intro s x reg d ea hs hx hholds hea hcap
  have haddr : Addresses s .displacement (.r16 x) [d] ea := .inl ⟨x, d, hx, rfl, rfl, rfl, hea⟩
  exact ⟨fun hv => step_load_mem_writes hs hv hholds rfl haddr hcap,
    fun hv wf => step_store_mem_stores hs hv hholds rfl haddr wf hcap⟩

/-- Settles O42: the forms L4 and L5 at the base's value; no trailing byte moves PC. -/
theorem registerIndirectThroughAnyBase : Obligations.RegisterIndirectThroughAnyBase := by
  intro s p reg hs hix hiy hcap
  have haddr : Addresses s .noOperand (.r16 p) [] (s.regs.read16 p) := .inr <| .inl ⟨p, hix, hiy, rfl, rfl, rfl, rfl⟩
  have hholds : s.imem.Holds s.regs.pc [] := trivial
  have hpc : pcPlus 0 s = s := (State.pcPlus_eq_advance 0 s).trans s.advance_zero
  refine ⟨fun hv => ?_, fun hv wf => ?_⟩
  · have h := step_load_mem_writes hs hv hholds List.length_nil haddr hcap
    rwa [hpc] at h
  · have h := step_store_mem_stores hs hv hholds List.length_nil haddr wf hcap
    rwa [hpc] at h

/-- Settles O43: each entry is its form L1, L2, L4 or L5, applied once PC has passed its trailing bytes. -/
theorem anyRegisterForms : Obligations.AnyRegisterForms := by
  intro s dst src hs
  refine ⟨fun hv => ?_, fun n hv hholds => ?_, fun first second hholds hcap => ?_⟩
  · rw [step_of_holds (tr := .noOperand) hs hv rfl trivial, Trailing.bytes, List.length_nil, State.advance_zero]
    exact loadRegReg_writes s dst src
  · rw [step_of_holds (tr := .n n) hs hv rfl hholds, ← State.pcPlus_eq_advance]
    exact loadRegImm_writes s _ dst n
  · have haddr : Addresses s .nn .imm16 [first, second] (imm16 first second) :=
      .inr <| .inr ⟨first, second, rfl, rfl, rfl, rfl⟩
    exact ⟨fun hv => step_load_mem_writes hs hv hholds rfl haddr hcap,
      fun hv wf => step_store_mem_stores hs hv hholds rfl haddr wf hcap⟩

end Sys2Proof.Claims
end

section
/-! PROOFS. The 16-bit loads (spec/44_load16.md): the form L3 writes its pair or register and nothing else (41_operands.md
R102), read off for the rows LD rp,nn (R123) and for the 16-bit immediate entries of any table (R127). -/

namespace Sys2Proof.Machine

open Claims

/-! ### What the form L3 leaves -/

/-- The answer completes with `v` written to `p` in the registers `g`; data memory and the rest are those of `s`. -/
def WritesWord (s : State) (g : Regs) (p : Reg16) (v : Word) (a : Answer) : Prop :=
  ∃ t, a = .next t ∧ Completed t ∧ t.regs = g.write16 p v ∧ SameBytes s t ∧ Rest s t

theorem loadReg16Imm_writes (s : State) (g : Regs) (p : Reg16) (nn : Word) :
    WritesWord s g p nn (loadReg16Imm p nn { s with regs := g }) :=
  ⟨_, rfl, ⟨rfl, rfl⟩, rfl, ⟨rfl, fun _ => rfl⟩, ⟨rfl, rfl, rfl, rfl, rfl⟩⟩

variable {s : State}

/-- Each pair row is the form L3 to the pair of the two registers listed with it. -/
theorem exec_pairImmRow {nn : Word} {row : Instr × Reg8 × Reg8} (h : row ∈ pairImmRows nn) :
    ∃ p, pairHalves p = some row.2 ∧ exec row.1 s = loadReg16Imm p nn s := by
  unfold pairImmRows at h
  fin_cases h
  · exact ⟨.bc, rfl, rfl⟩
  · exact ⟨.de, rfl, rfl⟩
  · exact ⟨.hl, rfl, rfl⟩

/-- The Exec step of a 16-bit immediate entry is the form L3, applied once PC has passed its two bytes (40_cycle.md R84,
R86). -/
theorem step_load_imm16_writes {x : Reg16} {first second : Byte} (hs : s.stage = .exec)
    (hv : s.current = some ⟨.nn, .load (.r16 x) .imm16⟩) (h : s.imem.Holds s.regs.pc [first, second]) :
    WritesWord s (pcPlus 2 s).regs x (imm16 first second) (step s) := by
  rw [step_of_holds (tr := .nn first second) hs hv rfl h, ← State.pcPlus_eq_advance]
  exact loadReg16Imm_writes s _ x _

/-! ### The halves of a written value -/

/-- Written to AF, the value's bits 7:0, its first byte, go to A and its bits 15:8, its second, to F (10_state.md R20). -/
theorem Regs.write16_af_imm16 (g : Regs) (first second : Byte) :
    (g.write16 .af (imm16 first second)).a = first ∧ (g.write16 .af (imm16 first second)).f = second :=
  ⟨imm16First_imm16 first second, imm16Second_imm16 first second⟩

end Sys2Proof.Machine

namespace Sys2Proof.Claims

open Sys2Proof.Machine

/-- Settles O37: each row is the form L3, and a write to a pair splits the value between its two registers. -/
theorem sixteenBitImmediates : Obligations.SixteenBitImmediates := by
  refine fun nn s => ⟨fun row hrow => ?_, loadReg16Imm_writes s s.regs .sp nn⟩
  obtain ⟨p, hp, hexec⟩ := exec_pairImmRow (s := s) hrow
  obtain ⟨hhigh, hlow, hother, hwords⟩ := pairWriteSplitsTheValue s.regs p row.2.1 row.2.2 nn hp
  obtain ⟨t, hnext, hdone, hregs, hbytes, hrest⟩ := loadReg16Imm_writes s s.regs p nn
  refine ⟨t, hexec.trans hnext, hdone, ?_⟩
  rw [hregs]
  exact ⟨hhigh, hlow, hother, hwords, hbytes, hrest⟩

/-- Settles O44: the value is written after PC has moved, so a write to PC replaces the moved PC. -/
theorem sixteenBitImmediateEntries : Obligations.SixteenBitImmediateEntries := by
  intro s x first second hs hv hholds
  obtain ⟨t, hnext, hdone, hregs, hbytes, hrest⟩ := step_load_imm16_writes hs hv hholds
  refine ⟨t, hnext, hdone, hregs, hbytes, hrest, ?_, ?_⟩
  · rintro rfl
    exact hregs
  · rintro rfl
    rw [hregs]
    exact Regs.write16_af_imm16 _ first second

end Sys2Proof.Claims
end

section
/-! PROOFS. Exceptions (spec/60_exceptions.md): what an admitted Load that names an invalid selector raises (R136), and
that an error is not remembered: no tick reads the last tick's answer (R141). -/

namespace Sys2Proof.Machine

variable {s : State} {tr : Trailing}

/-! ### The selectors of an admitted form -/

/-- Every selector the form resolves is a name of its set (10_state.md R23). -/
def LoadForm.selectorsValid : LoadForm → Bool
  | .regReg dst src => dst.valid && src.valid
  | .regImm dst _ => dst.valid
  | .reg16Imm dst _ => dst.valid
  | .regMem dst _ => dst.valid
  | .memReg _ src => src.valid

/-- An address with a raw selector is of no form (41_operands.md R98 to R101), so it fails the form check. -/
theorem selectorsValid_of_effectiveAddress {a : Operand} {ea : Word} (h : effectiveAddress s tr a = some ea) :
    a.selectorsValid = true := by
  unfold effectiveAddress at h
  split at h
  · rfl
  · rfl
  · rfl
  · cases h

/-- The form resolves the selectors of the two operands it was made from. -/
theorem loadForm_selectorsValid {dst src : Operand} {form : LoadForm} (h : loadForm s tr dst src = some form) :
    form.selectorsValid = (dst.selectorsValid && src.selectorsValid) := by
  unfold loadForm at h
  split at h
  · cases h; rfl
  · cases h; exact (Bool.and_true _).symm
  · cases h; exact (Bool.and_true _).symm
  · obtain ⟨ea, hea, rfl⟩ := Option.map_eq_some_iff.mp h
    simp [LoadForm.selectorsValid, Operand.selectorsValid, selectorsValid_of_effectiveAddress hea]
  · obtain ⟨ea, hea, rfl⟩ := Option.map_eq_some_iff.mp h
    simp [LoadForm.selectorsValid, Operand.selectorsValid, selectorsValid_of_effectiveAddress hea]
  · cases h

/-- A form resolves its selectors before it accesses memory (41_operands.md R103, step 3). -/
theorem performLoad_registerNotFound {form : LoadForm} (h : form.selectorsValid = false) (s : State) :
    performLoad form s = raise .registerNotFound s := by
  match form with
  | .regReg (.raw _) _ => rfl
  | .regReg (.named _) (.raw _) => rfl
  | .regImm (.raw _) _ => rfl
  | .reg16Imm (.raw _) _ => rfl
  | .regMem (.raw _) _ => rfl
  | .memReg _ (.raw _) => rfl

theorem applyLoad_registerNotFound {dst src : Operand} (hadmitted : dst.admittedLoad tr.kind src = true)
    (hinvalid : (dst.selectorsValid && src.selectorsValid) = false) (s : State) :
    applyLoad tr dst src s = raise .registerNotFound s := by
  rw [← loadForm_isSome s] at hadmitted
  obtain ⟨form, hform⟩ := Option.isSome_iff_exists.mp hadmitted
  simpa only [applyLoad, hform] using performLoad_registerNotFound ((loadForm_selectorsValid hform).trans hinvalid) s

/-! ### The last answer is not read -/

/-- The state with `r` in place of the last tick's answer. -/
def State.answered (r : Option TickResult) (s : State) : State := { s with lastResult := r }

variable (r : Option TickResult)

/-- A fetch carries the old answer along unread. -/
theorem fetchByte_answered (s : State) :
    fetchByte (s.answered r) = (fetchByte s).map (Prod.map id (State.answered r)) := by
  rw [fetchByte_eq, fetchByte_eq, apply_ite (Except.map _)]
  rfl

/-- So does a trailing fetch, complete or cut short. -/
theorem fetchTrailing_answered (k : Kind) (s : State) :
    fetchTrailing k (s.answered r) =
      ((fetchTrailing k s).map (Prod.map id (State.answered r))).mapError (Prod.map id (State.answered r)) := by
  cases k with
  | noOperand => rfl
  | n =>
    simp only [fetchTrailing, fetchByte_answered]
    cases fetchByte s <;> rfl
  | displacement =>
    simp only [fetchTrailing, fetchByte_answered]
    cases fetchByte s <;> rfl
  | nn =>
    simp only [fetchTrailing, fetchByte_answered]
    rcases fetchByte s with e | ⟨first, s1⟩
    · rfl
    · simp only [Except.map, Prod.map, fetchByte_answered]
      cases fetchByte s1 <;> rfl

theorem loadRegMem_answered (dst : Reg8) (ea : Word) (s : State) :
    loadRegMem dst ea (s.answered r) = loadRegMem dst ea s := by
  rcases Nat.lt_or_ge ea.toNat s.dmem.cap with hea | hea
  · exact (loadRegMem_in (s := s.answered r) hea).trans (loadRegMem_in hea).symm
  · exact (loadRegMem_out (s := s.answered r) hea).trans (loadRegMem_out hea).symm

theorem storeMemReg_answered (ea : Word) (src : Reg8) (s : State) :
    storeMemReg ea src (s.answered r) = storeMemReg ea src s := by
  rcases Nat.lt_or_ge ea.toNat s.dmem.cap with hea | hea
  · exact (storeMemReg_in (s := s.answered r) hea).trans (storeMemReg_in hea).symm
  · exact (storeMemReg_out (s := s.answered r) hea).trans (storeMemReg_out hea).symm

/-- Whatever a form does, it ends in an answer of its own, put in place of the old one. -/
theorem performLoad_answered (form : LoadForm) (s : State) :
    performLoad form (s.answered r) = performLoad form s := by
  cases hform : form.selectorsValid with
  | false => exact (performLoad_registerNotFound hform _).trans (performLoad_registerNotFound hform s).symm
  | true =>
    match form with
    | .regReg (.named _) (.named _) => rfl
    | .regImm (.named _) _ => rfl
    | .reg16Imm (.named _) _ => rfl
    | .regMem (.named dst) ea => exact loadRegMem_answered r dst ea s
    | .memReg ea (.named src) => exact storeMemReg_answered r ea src s

/-- The same of every operation. -/
theorem applyOperation_answered (op : Operation) (tr : Trailing) (s : State) :
    applyOperation op tr (s.answered r) = applyOperation op tr s := by
  cases op with
  | nop => rfl
  | load dst src =>
    have hform : loadForm (s.answered r) tr dst src = loadForm s tr dst src := rfl
    simp only [applyOperation, applyLoad, hform]
    cases loadForm s tr dst src with
    | some form => exact performLoad_answered r form s
    | none => rfl
  | add lhs rhs => rfl

theorem tickFetch_answered (s : State) : tickFetch (s.answered r) = tickFetch s := by
  rcases Nat.lt_or_ge s.regs.pc.toNat s.imem.cap with hpc | hpc
  · exact (tickFetch_in (s := s.answered r) hpc).trans (tickFetch_in hpc).symm
  · exact (tickFetch_out (s := s.answered r) hpc).trans (tickFetch_out hpc).symm

theorem tickDecode_answered (s : State) : tickDecode (s.answered r) = tickDecode s := rfl

/-- Exec carries the old answer through its trailing fetch, and then the operation or the error replaces it. -/
theorem tickExec_answered (s : State) : tickExec (s.answered r) = tickExec s := by
  have hcurrent : (s.answered r).current = s.current := rfl
  unfold tickExec
  rw [hcurrent]
  cases s.current with
  | none => rfl
  | some v =>
    simp only [fetchTrailing_answered]
    rcases fetchTrailing v.kind s with ⟨e, s1⟩ | ⟨tr, s1⟩
    · rfl
    · simp only [Except.map, Except.mapError, Prod.map, id, applyFetched_eq_applyOperation, applyOperation_answered]

theorem step_answered (s : State) : step (s.answered r) = step s := by
  have hstage : (s.answered r).stage = s.stage := rfl
  cases hs : s.stage with
  | fetch => rw [step_fetch (hstage.trans hs), step_fetch hs, tickFetch_answered]
  | decode => rw [step_decode (hstage.trans hs), step_decode hs, tickDecode_answered]
  | exec => rw [step_exec (hstage.trans hs), step_exec hs, tickExec_answered]
  | writeback => rw [step_writeback (hstage.trans hs), step_writeback hs]; rfl

end Sys2Proof.Machine

namespace Sys2Proof.Claims

open Sys2Proof.Machine

/-- Settles O46: the trailing bytes are fetched, the form check passes, and then a selector does not resolve. -/
theorem rawSelectorsRaiseRegisterNotFound : Obligations.RawSelectorsRaiseRegisterNotFound := by
  intro s v dst src bytes hs hv hholds hlength hop hadmitted hinvalid
  obtain ⟨tr, hkind, rfl⟩ := exists_trailing hlength
  rw [step_of_holds hs hv hkind hholds, State.pcPlus_eq_advance, hop]
  exact applyLoad_registerNotFound (hkind ▸ hadmitted) hinvalid _

/-- Settles O56: each stage's tick puts its own answer in place of the last one, which it has not read. -/
theorem errorsAreNotRemembered : Obligations.ErrorsAreNotRemembered := fun s r => step_answered r s

end Sys2Proof.Claims
end

section
/-! PROOFS. Construction and reset (spec/70_reset_and_hazards.md section 1): the state construction leaves (R150 to R152),
and that reset is one construction (R149), of the default parameters. -/

namespace Sys2Proof.Machine

/-- A memory with no placed byte is canonical as soon as it has a capacity (00_scope.md R5). -/
theorem Memory.wf_of_no_cells {cap : Nat} (hcap : 1 ≤ cap) : (Memory.mk cap []).wf :=
  ⟨.nil, fun _ hcell => absurd hcell List.not_mem_nil, hcap⟩

theorem one_le_defaultCapacity : 1 ≤ Config.defaultCapacity := by decide

theorem Params.default_legal : Params.default.Legal where
  imem := Memory.wf_of_no_cells one_le_defaultCapacity
  dmem := Memory.wf_of_no_cells one_le_defaultCapacity

end Sys2Proof.Machine

namespace Sys2Proof.Claims

open Sys2Proof.Machine

/-- Settles O51: each field by its equation for construction, and the invariant because the caller's memories are
canonical and nothing is pending or current. -/
theorem constructionState : Obligations.ConstructionState := fun P legal =>
  ⟨State.construct_stage P, State.construct_pending P, State.construct_current P, State.construct_decodeMisses P,
    State.construct_regs P, State.construct_imem P, State.construct_dmem P, State.construct_table P,
    State.construct_lastResult P, State.construct_inv legal⟩

/-- Settles O52: the parameters are the default ones, legal because both memories start with no placed byte; the invariant
is then that of any construction. -/
theorem resetIsAConstruction : Obligations.ResetIsAConstruction :=
  ⟨⟨Params.default, Params.default_legal, rfl⟩, rfl, rfl, rfl, State.construct_inv Params.default_legal⟩

end Sys2Proof.Claims
end
